-- ==== Sys2Proof/Word.lean ====
section
/-! DEFINITION. The two word types of tiny16: the 8-bit byte and the 16-bit word (spec/00_scope.md R5, R7). -/

namespace Sys2Proof

/-- An 8-bit value, 0 to 255: a register, a byte of memory, a device register, an immediate (R5, R7). -/
abbrev Byte := BitVec 8

/-- A 16-bit value, 0 to 65,535: an address, PC, SP, TICK (R5, R7). -/
abbrev Word := BitVec 16

end Sys2Proof
end

