-- ==== Sys2Proof/Syntax.lean ====
section
/-! DEFINITION. The syntax of tiny16: register names, the five formats, the three bytes of an instruction, and the 26
instructions, one constructor for each row of spec/opcode_table.json (spec/30_encoding.md R45, R46, R51). -/

namespace Sys2Proof

/-- The eight general registers (R10).  A register operand is one of these and nothing else, so an `Instr` names no
register that does not exist. -/
inductive Reg where
  | r0 | r1 | r2 | r3 | r4 | r5 | r6 | r7
deriving DecidableEq, Repr

/-- The five ways of using arg1 and arg2 (R46). -/
inductive Format where
  /-- `Ra, imm8` -/
  | ri
  /-- `Ra`; arg2 ignored -/
  | r
  /-- `Ra, Rb` -/
  | rr
  /-- `addr16`, high byte in arg1 -/
  | a
  /-- no operand; both bytes ignored -/
  | n
deriving DecidableEq, Repr

/-- The three bytes of an instruction as memory holds them, opcode at the lowest address (R45). -/
structure InstrBytes where
  opcode : Byte
  arg1 : Byte
  arg2 : Byte
deriving DecidableEq, Repr

/-- The instructions (R51).  `a` is the first register operand and `b` the second; an ignored byte (R50) is no part of
the instruction. -/
inductive Instr where
  /-- LOADI Ra, imm8: R60 -/
  | loadi (a : Reg) (imm8 : Byte)
  /-- LOAD Ra: R61 -/
  | load (a : Reg)
  /-- STORE Ra: R62 -/
  | store (a : Reg)
  /-- MOV Ra, Rb: R63 -/
  | mov (a b : Reg)
  /-- ADD Ra, Rb: R65 -/
  | add (a b : Reg)
  /-- SUB Ra, Rb: R66 -/
  | sub (a b : Reg)
  /-- INC Ra: R67 -/
  | inc (a : Reg)
  /-- DEC Ra: R68 -/
  | dec (a : Reg)
  /-- AND Ra, Rb: R69 -/
  | and (a b : Reg)
  /-- OR Ra, Rb: R70 -/
  | or (a b : Reg)
  /-- XOR Ra, Rb: R71 -/
  | xor (a b : Reg)
  /-- CMP Ra, Rb: R72 -/
  | cmp (a b : Reg)
  /-- ADC Ra, Rb: R73 -/
  | adc (a b : Reg)
  /-- SHL Ra: R74 -/
  | shl (a : Reg)
  /-- SHR Ra: R75 -/
  | shr (a : Reg)
  /-- SBC Ra, Rb: R76 -/
  | sbc (a b : Reg)
  /-- PUSH Ra: R79 -/
  | push (a : Reg)
  /-- POP Ra: R80 -/
  | pop (a : Reg)
  /-- JMP addr16: R82 -/
  | jmp (addr16 : Word)
  /-- JZ addr16: R83 -/
  | jz (addr16 : Word)
  /-- JNZ addr16: R84 -/
  | jnz (addr16 : Word)
  /-- JC addr16: R85 -/
  | jc (addr16 : Word)
  /-- JNC addr16: R86 -/
  | jnc (addr16 : Word)
  /-- CALL addr16: R88 -/
  | call (addr16 : Word)
  /-- RET: R89 -/
  | ret
  /-- HALT: R91 -/
  | halt
deriving DecidableEq, Repr

end Sys2Proof
end

