-- ==== Sys2Proof/WellFormed.lean ====
section
/-! DEFINITION. The opcode map of spec/30_encoding.md R51 as a table of masks and patterns over the 24-bit word W of R45,
and the check that three bytes spell an instruction.

An `Instr` is well formed by its type (its register operands are of type `Reg`, R47).  What can be ill formed is the
three bytes: an opcode of no row (R53), or a register byte of 8 to 255 in arg1 or in arg2 (R47, R96).  The check below is
written from the table's masks, the decoder (Decode.lean) from the procedure of R52; that the two agree is a statement
about them. -/

namespace Sys2Proof

/-- One row of the opcode map: the instruction word W spells the instruction when `W &&& mask = pattern` (R51). -/
structure OpcodeRow where
  mnemonic : String
  format : Format
  pattern : BitVec 24
  mask : BitVec 24
deriving DecidableEq, Repr

/-- The 26 rows of R51, in its order. -/
def opcodeTable : List OpcodeRow :=
  [⟨"LOADI", .ri, 0x100000#24, 0xFFF800#24⟩,
   ⟨"LOAD", .r, 0x110000#24, 0xFFF800#24⟩,
   ⟨"STORE", .r, 0x120000#24, 0xFFF800#24⟩,
   ⟨"MOV", .rr, 0x130000#24, 0xFFF8F8#24⟩,
   ⟨"ADD", .rr, 0x200000#24, 0xFFF8F8#24⟩,
   ⟨"SUB", .rr, 0x210000#24, 0xFFF8F8#24⟩,
   ⟨"INC", .r, 0x220000#24, 0xFFF800#24⟩,
   ⟨"DEC", .r, 0x230000#24, 0xFFF800#24⟩,
   ⟨"AND", .rr, 0x240000#24, 0xFFF8F8#24⟩,
   ⟨"OR", .rr, 0x250000#24, 0xFFF8F8#24⟩,
   ⟨"XOR", .rr, 0x260000#24, 0xFFF8F8#24⟩,
   ⟨"CMP", .rr, 0x270000#24, 0xFFF8F8#24⟩,
   ⟨"ADC", .rr, 0x280000#24, 0xFFF8F8#24⟩,
   ⟨"SHL", .r, 0x290000#24, 0xFFF800#24⟩,
   ⟨"SHR", .r, 0x2A0000#24, 0xFFF800#24⟩,
   ⟨"SBC", .rr, 0x2B0000#24, 0xFFF8F8#24⟩,
   ⟨"PUSH", .r, 0x2C0000#24, 0xFFF800#24⟩,
   ⟨"POP", .r, 0x2D0000#24, 0xFFF800#24⟩,
   ⟨"JMP", .a, 0x300000#24, 0xFF0000#24⟩,
   ⟨"JZ", .a, 0x310000#24, 0xFF0000#24⟩,
   ⟨"JNZ", .a, 0x320000#24, 0xFF0000#24⟩,
   ⟨"JC", .a, 0x330000#24, 0xFF0000#24⟩,
   ⟨"JNC", .a, 0x340000#24, 0xFF0000#24⟩,
   ⟨"CALL", .a, 0x400000#24, 0xFF0000#24⟩,
   ⟨"RET", .n, 0x410000#24, 0xFF0000#24⟩,
   ⟨"HALT", .n, 0xFF0000#24, 0xFF0000#24⟩]

/-- The row of R51 that an instruction belongs to, as its mnemonic. -/
def Instr.mnemonic : Instr → String
  | .loadi _ _ => "LOADI"
  | .load _ => "LOAD"
  | .store _ => "STORE"
  | .mov _ _ => "MOV"
  | .add _ _ => "ADD"
  | .sub _ _ => "SUB"
  | .inc _ => "INC"
  | .dec _ => "DEC"
  | .and _ _ => "AND"
  | .or _ _ => "OR"
  | .xor _ _ => "XOR"
  | .cmp _ _ => "CMP"
  | .adc _ _ => "ADC"
  | .shl _ => "SHL"
  | .shr _ => "SHR"
  | .sbc _ _ => "SBC"
  | .push _ => "PUSH"
  | .pop _ => "POP"
  | .jmp _ => "JMP"
  | .jz _ => "JZ"
  | .jnz _ => "JNZ"
  | .jc _ => "JC"
  | .jnc _ => "JNC"
  | .call _ => "CALL"
  | .ret => "RET"
  | .halt => "HALT"

/-- The 24-bit word `W = {opcode, arg1, arg2}` of R45: a notation, not a value of memory. -/
def InstrBytes.word (b : InstrBytes) : BitVec 24 := b.opcode ++ b.arg1 ++ b.arg2

/-- Three bytes spell a row's instruction: `W & mask == match` (R51). -/
def InstrBytes.spells (b : InstrBytes) (row : OpcodeRow) : Bool :=
  b.word &&& row.mask == row.pattern

/-- Three bytes spell some instruction of the table (R51). -/
def InstrBytes.wellFormed (b : InstrBytes) : Bool :=
  opcodeTable.any fun row => b.spells row

end Sys2Proof
end

