-- ==== Sys2Proof/Decode.lean ====
section
/-! DEFINITION. Decoding and encoding (spec/30_encoding.md R46 to R52, R59), the numbering of the opcode table, and the
fields of an instruction word. -/

namespace Sys2Proof

/-- The register a register byte names: the byte n is Rn, and 8 to 255 name none (R47, R96). -/
def Reg.ofByte? (b : Byte) : Option Reg :=
  match b with
  | 0x00#8 => some .r0
  | 0x01#8 => some .r1
  | 0x02#8 => some .r2
  | 0x03#8 => some .r3
  | 0x04#8 => some .r4
  | 0x05#8 => some .r5
  | 0x06#8 => some .r6
  | 0x07#8 => some .r7
  | _ => none

/-- The byte a register operand is written as (R47). -/
def Reg.toByte : Reg → Byte
  | .r0 => 0x00#8
  | .r1 => 0x01#8
  | .r2 => 0x02#8
  | .r3 => 0x03#8
  | .r4 => 0x04#8
  | .r5 => 0x05#8
  | .r6 => 0x06#8
  | .r7 => 0x07#8

/-- `addr16 = {arg1, arg2}`: high byte first (R31, R49). -/
def addr16OfBytes (arg1 arg2 : Byte) : Word := arg1 ++ arg2

/-- Bits 15:8 of an address (R31). -/
def addrHigh (addr16 : Word) : Byte := addr16.extractLsb' 8 8

/-- Bits 7:0 of an address (R31). -/
def addrLow (addr16 : Word) : Byte := addr16.extractLsb' 0 8

/-- Why three bytes are no instruction.  The step adds the PC and makes a fault of it (R95, R96). -/
inductive DecodeError where
  /-- The opcode byte is none of the 26 (R53). -/
  | unknownOpcode (opcode : Byte)
  /-- A register byte is 8 to 255 (R47). -/
  | invalidRegister (byte : Byte)
deriving DecidableEq, Repr

/-- One register byte of an instruction, and what is decoded with it. -/
def withReg (byte : Byte) (k : Reg → Except DecodeError Instr) : Except DecodeError Instr :=
  match Reg.ofByte? byte with
  | some r => k r
  | none => .error (.invalidRegister byte)

/-- Format R: the register in arg1, arg2 ignored (R46, R50). -/
def decodeR (b : InstrBytes) (mk : Reg → Instr) : Except DecodeError Instr :=
  withReg b.arg1 fun a => .ok (mk a)

/-- Format RR: arg1 is checked before arg2 (R46, R52, R101). -/
def decodeRR (b : InstrBytes) (mk : Reg → Reg → Instr) : Except DecodeError Instr :=
  withReg b.arg1 fun a => withReg b.arg2 fun r => .ok (mk a r)

/-- Format A (R46, R49). -/
def decodeA (b : InstrBytes) (mk : Word → Instr) : Except DecodeError Instr :=
  .ok (mk (addr16OfBytes b.arg1 b.arg2))

/-- The decode procedure of R52, total on every byte triple. -/
def decode (b : InstrBytes) : Except DecodeError Instr :=
  match b.opcode with
  | 0x10#8 => withReg b.arg1 fun a => .ok (.loadi a b.arg2)
  | 0x11#8 => decodeR b .load
  | 0x12#8 => decodeR b .store
  | 0x13#8 => decodeRR b .mov
  | 0x20#8 => decodeRR b .add
  | 0x21#8 => decodeRR b .sub
  | 0x22#8 => decodeR b .inc
  | 0x23#8 => decodeR b .dec
  | 0x24#8 => decodeRR b .and
  | 0x25#8 => decodeRR b .or
  | 0x26#8 => decodeRR b .xor
  | 0x27#8 => decodeRR b .cmp
  | 0x28#8 => decodeRR b .adc
  | 0x29#8 => decodeR b .shl
  | 0x2A#8 => decodeR b .shr
  | 0x2B#8 => decodeRR b .sbc
  | 0x2C#8 => decodeR b .push
  | 0x2D#8 => decodeR b .pop
  | 0x30#8 => decodeA b .jmp
  | 0x31#8 => decodeA b .jz
  | 0x32#8 => decodeA b .jnz
  | 0x33#8 => decodeA b .jc
  | 0x34#8 => decodeA b .jnc
  | 0x40#8 => decodeA b .call
  | 0x41#8 => .ok .ret
  | 0xFF#8 => .ok .halt
  | op => .error (.unknownOpcode op)

/-- The bytes of a format R instruction; the ignored byte is written 0x00 (R59). -/
def encodeR (opcode : Byte) (a : Reg) : InstrBytes := ⟨opcode, a.toByte, 0x00#8⟩

/-- The bytes of a format RR instruction: first operand in arg1, second in arg2 (R46). -/
def encodeRR (opcode : Byte) (a b : Reg) : InstrBytes := ⟨opcode, a.toByte, b.toByte⟩

/-- The bytes of a format A instruction: high byte, then low byte (R31). -/
def encodeA (opcode : Byte) (addr16 : Word) : InstrBytes := ⟨opcode, addrHigh addr16, addrLow addr16⟩

/-- The canonical encoding of R59, from the table of R51. -/
def encode : Instr → InstrBytes
  | .loadi a imm8 => ⟨0x10#8, a.toByte, imm8⟩
  | .load a => encodeR 0x11#8 a
  | .store a => encodeR 0x12#8 a
  | .mov a b => encodeRR 0x13#8 a b
  | .add a b => encodeRR 0x20#8 a b
  | .sub a b => encodeRR 0x21#8 a b
  | .inc a => encodeR 0x22#8 a
  | .dec a => encodeR 0x23#8 a
  | .and a b => encodeRR 0x24#8 a b
  | .or a b => encodeRR 0x25#8 a b
  | .xor a b => encodeRR 0x26#8 a b
  | .cmp a b => encodeRR 0x27#8 a b
  | .adc a b => encodeRR 0x28#8 a b
  | .shl a => encodeR 0x29#8 a
  | .shr a => encodeR 0x2A#8 a
  | .sbc a b => encodeRR 0x2B#8 a b
  | .push a => encodeR 0x2C#8 a
  | .pop a => encodeR 0x2D#8 a
  | .jmp addr16 => encodeA 0x30#8 addr16
  | .jz addr16 => encodeA 0x31#8 addr16
  | .jnz addr16 => encodeA 0x32#8 addr16
  | .jc addr16 => encodeA 0x33#8 addr16
  | .jnc addr16 => encodeA 0x34#8 addr16
  | .call addr16 => encodeA 0x40#8 addr16
  | .ret => ⟨0x41#8, 0x00#8, 0x00#8⟩
  | .halt => ⟨0xFF#8, 0x00#8, 0x00#8⟩

/-- The three bytes of the word W of R45: W[23:16], W[15:8], W[7:0]. -/
def InstrBytes.ofWord (w : BitVec 24) : InstrBytes :=
  ⟨w.extractLsb' 16 8, w.extractLsb' 8 8, w.extractLsb' 0 8⟩

/-- The three bytes that spec/opcode_table.json writes as the number `w` of `nbits` bits.  Its one word is the 24-bit W of
R45 (`match == opcode << 16`): the opcode is bits 23:16 and stands at the lowest address (log entry 16). -/
def tableWordBytes (nbits w : Nat) : InstrBytes :=
  InstrBytes.ofWord (BitVec.ofNat 24 (w % 2 ^ nbits))

/-- The instruction the decoder reads from a word of spec/opcode_table.json; none where it refuses. -/
def decodeTableWord (nbits w : Nat) : Option Instr :=
  match decode (tableWordBytes nbits w) with
  | .ok i => some i
  | .error _ => none

end Sys2Proof
end

