-- ==== Sys2Proof/Config.lean ====
section
/-! DEFINITION. What a launch fixes: the named parameters of spec/00_scope.md R6 that are plain values, and the one
free value of the model, the bytes of memory that a launch does not define. -/

namespace Sys2Proof

/-- RET_ADDR_LAYOUT (R6, D13): where CALL puts the two bytes of the return address (R33, R87). -/
inductive RetAddrLayout where
  /-- The high byte at the old SP, the low byte one below it: the spec's default. -/
  | hiAtHigher
  /-- The low byte at the old SP, the high byte one below it. -/
  | hiAtLower
deriving DecidableEq, Repr

/-- The parameters of R6 that are plain values.  They are fixed for one launch; the defaults are the spec's own
(D9, D13, D15).  The other three of R6 stand elsewhere: MEM0 is an argument of `State.launch`, HOST is the state's `schedule`
and `routine` or the argument of `runUnder`, HOST_PROCESSES_SWAP is the hypothesis `HostProcessesSwap`. -/
structure Config where
  /-- EXT_REGION_IS_RAM: whether 0x4000 to 0x7FFF is plain storage (D9). -/
  extRegionIsRam : Bool := false
  /-- RET_ADDR_LAYOUT (D13). -/
  retAddrLayout : RetAddrLayout := .hiAtHigher
  /-- TICK_RESET: the value of the instruction counter at reset (D15). -/
  tickReset : Word := 0
deriving DecidableEq, Repr

/-- The byte that an address of storage holds in a launch that does not define it, before anything is written there
(R23 "unspecified", R29, D18, V1).  A FREE VALUE: it has no body, so nothing can be proved of it.  It depends on the
launch (a number) and the address, and on nothing else, because two reads with no write between them return the same
byte (R37).  Log entry 1; safe. -/
opaque Config.unspecifiedByte : Nat → Word → Byte

end Sys2Proof
end

