-- ==== Sys2Proof/Machine/State.lean ====
section
/-! DEFINITION. The state of tiny16 and its platform (spec/10_state.md R10 to R24), the reasons a step stops
(spec/60_exceptions.md R94), the turns of the two agents (R118), and the state after reset (R23). -/

namespace Sys2Proof.Machine

/-- The eight general registers, 8 bits each (R10). -/
structure Regs where
  r0 : Byte
  r1 : Byte
  r2 : Byte
  r3 : Byte
  r4 : Byte
  r5 : Byte
  r6 : Byte
  r7 : Byte
deriving DecidableEq, Repr

/-- The device state that a program sees through the MMIO addresses (R19). -/
structure Devices where
  /-- KEYS_STATE, 0xBF00 (R107) -/
  keysState : Byte
  /-- KEYS_PRESSED, 0xBF01, a latch that a LOAD clears (R108) -/
  keysPressed : Byte
  /-- MOUSE_X, 0xBF02, 0 to 127 (R109) -/
  mouseX : Byte
  /-- MOUSE_Y, 0xBF03, 0 to 127 (R110) -/
  mouseY : Byte
  /-- MOUSE_BUTTONS, 0xBF04 (R111) -/
  mouseButtons : Byte
  /-- FRAME_COUNT, 0xBF22 (R113) -/
  frameCount : Byte
  /-- VSYNC, 0xBF23: 1 while a buffer swap is requested and not yet processed, else 0 (R114) -/
  vsync : Byte
deriving DecidableEq, Repr

/-- The host's moves, the whole list of R118.  Each carries what the host chooses; a mouse coordinate has seven bits
because its value set is 0 to 127 (R109, R110). -/
inductive HostMove where
  /-- KEYS_STATE takes any byte; any newly pressed keys are ORed into KEYS_PRESSED. -/
  | keyChange (state newlyPressed : Byte)
  /-- MOUSE_X, MOUSE_Y and MOUSE_BUTTONS take any values of their sets. -/
  | mouseChange (x y : BitVec 7) (buttons : Byte)
  /-- FRAME_COUNT takes any byte (R113, D28). -/
  | frameTick (count : Byte)
  /-- A requested buffer swap is processed; without a request this move does nothing. -/
  | processSwap
deriving DecidableEq, Repr

/-- Whose turn it is.  The host moves between CPU steps and never during one (R22), so a run is a sequence of turns. -/
inductive Turn where
  /-- The CPU executes one instruction (R21). -/
  | cpu
  /-- The host makes one move (R118). -/
  | host (move : HostMove)
deriving DecidableEq, Repr

/-- Storage, as (address, byte) pairs: the bytes the launch defined (MEM0, R6) and those written since (R20).  An
address that is not listed has no value here: what it reads as is said by `State.readStorage` (log entry 1). -/
abbrev Memory := List Host.Cell

/-- The addresses of `m` are all above `low` and rise strictly, and each is below 65,536. -/
def Memory.risingAbove (low : Nat) : Memory → Bool
  | [] => true
  | (a, _) :: rest => decide (low ≤ a) && decide (a < 65536) && Memory.risingAbove (a + 1) rest

/-- The one canonical form of a memory: addresses strictly rising, each an address of the 64 KB space (R25).  An
unlisted address has no value, so no entry can equal what an unlisted address holds. -/
def Memory.wf (m : Memory) : Bool := Memory.risingAbove 0 m

/-- The kinds of memory access (R27). -/
inductive AccessKind where
  /-- one of the three byte reads of the instruction cycle -/
  | fetch
  /-- the read of LOAD -/
  | load
  /-- the write of STORE -/
  | store
  /-- a read of POP or RET -/
  | stackRead
  /-- a write of PUSH or CALL -/
  | stackWrite
deriving DecidableEq, Repr

/-- The six faults of R94, with what each records.  A fault is terminal, saves nothing and changes nothing (R9, R102);
the model stops where the source says "undefined" or gives no consequence, so every one of them is SAFE: no behaviour
of the hardware after it is claimed (log entry 9). -/
inductive Fault where
  /-- R95.  Raised by decode of any instruction when the opcode byte is none of the 26.  Safe. -/
  | unknownOpcode (pc : Word) (opcode : Byte)
  /-- R96.  Raised by decode when a register byte is 8 to 255.  Safe. -/
  | invalidRegister (pc : Word) (byte : Byte)
  /-- R97.  Raised by the fetch of any instruction, by LOAD and by STORE, where the table of R28 does not allow the
  access.  Safe. -/
  | invalidMemoryAccess (kind : AccessKind) (addr : Word)
  /-- R98.  Raised by LOAD and STORE in 0xBF00 to 0xBFFF where no register takes the access; `value` is the byte a STORE
  tried to write.  Safe. -/
  | undefinedMMIOAccess (kind : AccessKind) (addr : Word) (value : Option Byte)
  /-- R99.  Raised by PUSH and CALL when SP would go below 0x8000.  Safe. -/
  | stackOverflow (sp : Word)
  /-- R100.  Raised by POP and RET when SP would go above 0xBEFF.  Safe. -/
  | stackUnderflow (sp : Word)
deriving DecidableEq, Repr

/-- Why there is no step. -/
inductive Refusal where
  /-- An instruction that has no meaning in the model; no arm of `exec` answers with it.  Safe. -/
  | notModelled (mnemonic : String)
  /-- The CPU's turn on a halted machine: when HALTED is 1 the CPU has no step (R17, R91).  Raised by the instruction
  cycle, by no instruction.  Safe (log entry 10). -/
  | halted
deriving DecidableEq, Repr

/-- The machine: the CPU's state, the platform's device state, memory, and the model's own four fields at the end. -/
structure State where
  /-- R0 to R7 (R10) -/
  regs : Regs
  /-- PC: the address of the next instruction's opcode byte (R12) -/
  pc : Word
  /-- SP: the address of the next free stack byte (R13) -/
  sp : Word
  /-- Z, the zero flag (R14) -/
  z : Bool
  /-- C, the carry or borrow flag (R14) -/
  c : Bool
  /-- HALTED: set by HALT, cleared by nothing (R17) -/
  halted : Bool
  /-- TICK: instructions completed, modulo 65,536 (R18) -/
  tick : Word
  /-- The device registers (R19) -/
  devices : Devices
  /-- Storage (R20) -/
  mem : Memory
  /-- MODEL's own: the parameters of this launch (R6; log entry 2) -/
  config : Config
  /-- MODEL's own: the turns to come first (R22, R118; log entry 3) -/
  schedule : List Turn
  /-- MODEL's own: the turns that follow when `schedule` is used up, over and over for ever; when it is empty too, every
  turn is the CPU's; one of host moves only leaves the CPU no turn (R6, R118; DESIGN CHOICE, log entries 3, 19) -/
  routine : List Turn
  /-- MODEL's own: which launch this is, the argument of `Config.unspecifiedByte` (log entry 1) -/
  launchId : Nat
deriving DecidableEq, Repr

/-- What one turn, or one instruction's meaning, answers. -/
abbrev Result := Host.Outcome State Fault Refusal

/-- Every general register 0 (R23). -/
def Regs.zero : Regs := ⟨0, 0, 0, 0, 0, 0, 0, 0⟩

/-- What the host presents when a launch begins, each in its value set (R23, R107 to R111, R113).  VSYNC is no part of
it: R23 fixes it at 0. -/
structure Inputs where
  keysState : Byte := 0
  keysPressed : Byte := 0
  mouseX : BitVec 7 := 0
  mouseY : BitVec 7 := 0
  mouseButtons : Byte := 0
  frameCount : Byte := 0
deriving DecidableEq, Repr

/-- The device registers at reset: VSYNC is 0 (R23, R123, D16), the others are what the host presents. -/
def Devices.atReset (inputs : Inputs) : Devices where
  keysState := inputs.keysState
  keysPressed := inputs.keysPressed
  mouseX := inputs.mouseX.setWidth 8
  mouseY := inputs.mouseY.setWidth 8
  mouseButtons := inputs.mouseButtons
  frameCount := inputs.frameCount
  vsync := 0

/-- The machine right after reset (R23), with the default parameters of R6, no memory defined, an idle host that presents
zeros (the spec states no value of the input registers; DESIGN CHOICE, unsafe, log entry 4), and launch 0 (log entries 1,
2, 3, 15).  Any other launch is `State.launch`. -/
def State.reset : State where
  regs := Regs.zero
  pc := 0x0010
  sp := 0xBEFF
  z := false
  c := false
  halted := false
  tick := 0
  devices := Devices.atReset {}
  mem := []
  config := {}
  schedule := []
  routine := []
  launchId := 0

end Sys2Proof.Machine
end

