-- ==== Sys2Proof/Machine/Ops.lean ====
section
/-! DEFINITION. The named operations over registers, memory, device registers, the stack and the counters
(spec/20_memory.md R28 to R30, spec/60_exceptions.md R94 to R118, spec/44_subroutines.md R87).

Every operation tests its fault conditions before its first write, so an operation that faults has changed nothing
(R21, R102). -/

namespace Sys2Proof.Machine

/-! ### General registers (R10) -/

/-- The register file read at a register name. -/
def Regs.get (g : Regs) : Reg → Byte
  | .r0 => g.r0
  | .r1 => g.r1
  | .r2 => g.r2
  | .r3 => g.r3
  | .r4 => g.r4
  | .r5 => g.r5
  | .r6 => g.r6
  | .r7 => g.r7

/-- The register file with one register written. -/
def Regs.set (g : Regs) (r : Reg) (v : Byte) : Regs :=
  match r with
  | .r0 => { g with r0 := v }
  | .r1 => { g with r1 := v }
  | .r2 => { g with r2 := v }
  | .r3 => { g with r3 := v }
  | .r4 => { g with r4 := v }
  | .r5 => { g with r5 := v }
  | .r6 => { g with r6 := v }
  | .r7 => { g with r7 := v }

/-- `x[r]` (R8). -/
def State.reg (s : State) (r : Reg) : Byte := s.regs.get r

/-- `x[r] <- v` (R8).  No register is hard-wired or read-only (R10). -/
def State.setReg (s : State) (r : Reg) (v : Byte) : State := { s with regs := s.regs.set r v }

/-! ### One field written -/

/-- `pc <- v`. -/
def State.setPc (s : State) (v : Word) : State := { s with pc := v }

/-- `sp <- v`. -/
def State.setSp (s : State) (v : Word) : State := { s with sp := v }

/-- TICK takes a value (R18). -/
def State.setTick (s : State) (v : Word) : State := { s with tick := v }

/-- The device registers take new values (R19). -/
def State.setDevices (s : State) (d : Devices) : State := { s with devices := d }

/-- The turns to come (R22). -/
def State.setSchedule (s : State) (turns : List Turn) : State := { s with schedule := turns }

/-! ### Taking a fault (R8, R9, R93, R102) -/

/-- `raise F(info)`: the one way a fault is taken.  There is no trap: nothing is saved, control goes nowhere, and the
CPU has no further step (R93, R102). -/
def raiseFault (f : Fault) : Result := .fault f

/-! ### Storage (R20, R26) -/

/-- The byte listed at an address, if one is. -/
def Memory.lookup : Memory → Nat → Option Byte
  | [], _ => none
  | (k, v) :: rest, a => if k = a then some v else Memory.lookup rest a

/-- The memory with one byte written; a canonical memory stays canonical. -/
def Memory.insert : Memory → Nat → Byte → Memory
  | [], a, v => [(a, v)]
  | (k, w) :: rest, a, v =>
    if a < k then (a, v) :: (k, w) :: rest
    else if a = k then (a, v) :: rest
    else (k, w) :: Memory.insert rest a v

/-- `MEM[addr]` (R29): the byte last written there, or the launch's MEM0; where neither exists, the free value of this
launch at this address (R23, R37, D18; log entry 1). -/
def State.readStorage (s : State) (addr : Word) : Byte :=
  (Memory.lookup s.mem addr.toNat).getD (Config.unspecifiedByte s.launchId addr)

/-- `MEM[addr] <- v` (R30). -/
def State.writeStorage (s : State) (addr : Word) (v : Byte) : State :=
  { s with mem := Memory.insert s.mem addr.toNat v }

/-- The ranges of the memory map (R26). -/
inductive Region where
  /-- 0x0000 to 0x000F -/
  | signature
  /-- 0x0010 to 0x1FFF -/
  | code
  /-- 0x2000 to 0x3FFF -/
  | data
  /-- 0x4000 to 0x7FFF -/
  | extended
  /-- 0x8000 to 0xBEFF -/
  | stack
  /-- 0xBF00 to 0xBFFF -/
  | mmio
  /-- 0xC000 to 0xFFFF -/
  | framebuffer
deriving DecidableEq, Repr

/-- The range an address lies in (R26). -/
def regionOf (addr : Word) : Region :=
  if addr.toNat < 0x0010 then .signature
  else if addr.toNat < 0x2000 then .code
  else if addr.toNat < 0x4000 then .data
  else if addr.toNat < 0x8000 then .extended
  else if addr.toNat < 0xBF00 then .stack
  else if addr.toNat < 0xC000 then .mmio
  else .framebuffer

/-! ### Device registers (R106) -/

/-- The registers present in 0xBF00 to 0xBFFF (R106). -/
inductive DeviceReg where
  | keysState | keysPressed | mouseX | mouseY | mouseButtons | tickLow | tickHigh | frameCount | vsync
deriving DecidableEq, Repr

/-- The register at an MMIO address, by the table of R106.  The TODO registers are not present (R115), and the unlisted
addresses hold none (R116). -/
def deviceRegAt (addr : Word) : Option DeviceReg :=
  match addr with
  | 0xBF00#16 => some .keysState
  | 0xBF01#16 => some .keysPressed
  | 0xBF02#16 => some .mouseX
  | 0xBF03#16 => some .mouseY
  | 0xBF04#16 => some .mouseButtons
  | 0xBF20#16 => some .tickLow
  | 0xBF21#16 => some .tickHigh
  | 0xBF22#16 => some .frameCount
  | 0xBF23#16 => some .vsync
  | _ => none

/-- The value a LOAD of a device register returns (R106 to R114).  TICK is read as it stands before the LOAD's own
increment (R18, R112). -/
def State.deviceValue (s : State) : DeviceReg → Byte
  | .keysState => s.devices.keysState
  | .keysPressed => s.devices.keysPressed
  | .mouseX => s.devices.mouseX
  | .mouseY => s.devices.mouseY
  | .mouseButtons => s.devices.mouseButtons
  | .tickLow => s.tick.extractLsb' 0 8
  | .tickHigh => s.tick.extractLsb' 8 8
  | .frameCount => s.devices.frameCount
  | .vsync => s.devices.vsync

/-- What a LOAD of a device register does to the platform: KEYS_PRESSED is cleared, the others are unchanged (R37,
R108). -/
def State.afterDeviceRead (s : State) : DeviceReg → State
  | .keysPressed => s.setDevices { s.devices with keysPressed := 0#8 }
  | .keysState => s
  | .mouseX => s
  | .mouseY => s
  | .mouseButtons => s
  | .tickLow => s
  | .tickHigh => s
  | .frameCount => s
  | .vsync => s

/-- MMIORead (R106): the byte, and the state after the read. -/
def mmioRead (s : State) (addr : Word) : Except Fault (Byte × State) :=
  match deviceRegAt addr with
  | some d => .ok (s.deviceValue d, s.afterDeviceRead d)
  | none => .error (.undefinedMMIOAccess .load addr none)

/-- MMIOWrite (R106, R114): a write of 1 to VSYNC requests a buffer swap; every other write is undefined. -/
def mmioWrite (s : State) (addr : Word) (v : Byte) : Except Fault State :=
  if deviceRegAt addr = some .vsync ∧ v = 1#8 then
    .ok (s.setDevices { s.devices with vsync := 1#8 })
  else .error (.undefinedMMIOAccess .store addr (some v))

/-! ### MemRead and MemWrite (R28, R29, R30) -/

/-- MemRead of kind fetch: only from the code segment (R28, R29). -/
def memFetch (s : State) (addr : Word) : Except Fault Byte :=
  match regionOf addr with
  | .code => .ok (s.readStorage addr)
  | .signature => .error (.invalidMemoryAccess .fetch addr)
  | .data => .error (.invalidMemoryAccess .fetch addr)
  | .extended => .error (.invalidMemoryAccess .fetch addr)
  | .stack => .error (.invalidMemoryAccess .fetch addr)
  | .mmio => .error (.invalidMemoryAccess .fetch addr)
  | .framebuffer => .error (.invalidMemoryAccess .fetch addr)

/-- MemRead of kind load: the byte, and the state after the read (R28, R29). -/
def memLoad (s : State) (addr : Word) : Except Fault (Byte × State) :=
  match regionOf addr with
  | .mmio => mmioRead s addr
  | .extended =>
    if s.config.extRegionIsRam then .ok (s.readStorage addr, s)
    else .error (.invalidMemoryAccess .load addr)
  | .signature => .ok (s.readStorage addr, s)
  | .code => .ok (s.readStorage addr, s)
  | .data => .ok (s.readStorage addr, s)
  | .stack => .ok (s.readStorage addr, s)
  | .framebuffer => .ok (s.readStorage addr, s)

/-- MemWrite of kind store (R28, R30, R38). -/
def memStore (s : State) (addr : Word) (v : Byte) : Except Fault State :=
  match regionOf addr with
  | .signature => .error (.invalidMemoryAccess .store addr)
  | .code => .error (.invalidMemoryAccess .store addr)
  | .mmio => mmioWrite s addr v
  | .extended =>
    if s.config.extRegionIsRam then .ok (s.writeStorage addr v)
    else .error (.invalidMemoryAccess .store addr)
  | .data => .ok (s.writeStorage addr v)
  | .stack => .ok (s.writeStorage addr v)
  | .framebuffer => .ok (s.writeStorage addr v)

/-! ### The stack (R13, R78, R87) -/

/-- The byte push of PUSH: the overflow test on the SP it would leave, then store, then decrement (R79, R99). -/
def pushByte (s : State) (v : Byte) : Except Fault State :=
  if s.sp.toNat < 0x8000 + 1 then .error (.stackOverflow s.sp)
  else .ok ((s.writeStorage s.sp v).setSp (s.sp - 1#16))

/-- The byte pop of POP: the underflow test, then increment, then read at the new SP (R80, R100). -/
def popByte (s : State) : Except Fault (Byte × State) :=
  if s.sp.toNat + 1 > 0xBEFF then .error (.stackUnderflow s.sp)
  else .ok (s.readStorage (s.sp + 1#16), s.setSp (s.sp + 1#16))

/-- The byte that PUSH16 stores at the old SP: the high byte by default (R33, R87). -/
def firstPushed (layout : RetAddrLayout) (v : Word) : Byte :=
  match layout with
  | .hiAtHigher => v.extractLsb' 8 8
  | .hiAtLower => v.extractLsb' 0 8

/-- The byte that PUSH16 stores one below the old SP: the low byte by default (R33, R87). -/
def secondPushed (layout : RetAddrLayout) (v : Word) : Byte :=
  match layout with
  | .hiAtHigher => v.extractLsb' 0 8
  | .hiAtLower => v.extractLsb' 8 8

/-- The value POP16 makes of the byte at `sp + 1` and the byte at `sp + 2` (R87). -/
def joinPopped (layout : RetAddrLayout) (atSp1 atSp2 : Byte) : Word :=
  match layout with
  | .hiAtHigher => atSp2 ++ atSp1
  | .hiAtLower => atSp1 ++ atSp2

/-- PUSH16 (R87): the overflow test, two stores at `sp` and `sp - 1`, SP down by 2. -/
def push16 (s : State) (v : Word) : Except Fault State :=
  if s.sp.toNat < 0x8000 + 2 then .error (.stackOverflow s.sp)
  else .ok (((s.writeStorage s.sp (firstPushed s.config.retAddrLayout v)).writeStorage (s.sp - 1#16)
      (secondPushed s.config.retAddrLayout v)).setSp (s.sp - 2#16))

/-- POP16 (R87): the underflow test, two reads at `sp + 1` and `sp + 2`, SP up by 2. -/
def pop16 (s : State) : Except Fault (Word × State) :=
  if s.sp.toNat + 2 > 0xBEFF then .error (.stackUnderflow s.sp)
  else .ok (joinPopped s.config.retAddrLayout (s.readStorage (s.sp + 1#16)) (s.readStorage (s.sp + 2#16)),
      s.setSp (s.sp + 2#16))

/-! ### PC and the ends of an instruction (R12, R18) -/

/-- `pc_next = (pc + 3) mod 65536` (R8, R12). -/
def State.pcNext (s : State) : Word := s.pc + 3#16

/-- `pc <- pc_next` (R12). -/
def State.advance (s : State) : State := s.setPc s.pcNext

/-- The end of an instruction that does not write PC itself: `pc <- pc_next`, or the fault it raised. -/
def advanceOrFault (r : Except Fault State) : Result :=
  match r with
  | .ok s => .next s.advance
  | .error f => raiseFault f

/-- `TICK <- (TICK + 1) mod 65536` at the end of an instruction that completes; a fault does not count (R18, R21). -/
def countTick (r : Result) : Result :=
  match r with
  | .next s => .next (s.setTick (s.tick + 1#16))
  | .fault f => .fault f
  | .refused w => .refused w

/-! ### The framebuffer's pixels (R117) -/

/-- The address of the pixel at column x and row y: `0xC000 + (y << 7) + x`. -/
def pixelAddr (x y : BitVec 7) : Word := BitVec.ofNat 16 (0xC000 + y.toNat * 128 + x.toNat)

end Sys2Proof.Machine
end

