-- ==== Sys2Proof/Machine/Operands.lean ====
section
/-! DEFINITION. The operand forms (spec/30_encoding.md R46 to R49, spec/10_state.md R11): a register operand is read and
written by `State.reg` and `State.setReg` (Ops), an immediate is used as it stands (R48), and what is left is the
implicit address of LOAD and STORE and the absolute target of a jump. -/

namespace Sys2Proof.Machine

/-- `ADDR = (x[6] << 8) | x[7]`, from R6 and R7 as they are before the instruction (R11, R32). -/
def State.addrPair (s : State) : Word := s.reg .r6 ++ s.reg .r7

/-- The PC a jump leaves: its absolute target if it is taken, else `pc_next` (R49, R81). -/
def State.jumpPc (s : State) (taken : Bool) (target : Word) : Word :=
  match taken with
  | true => target
  | false => s.pcNext

end Sys2Proof.Machine
end

