-- ==== Sys2Proof/Machine/Flags.lean ====
section
/-! DEFINITION. Results and flags of the twelve flag-writing instructions (spec/10_state.md R14, R15,
spec/41_arithmetic_logic.md R64 to R77).  Operands are widened to unbounded integers, the sum or difference is exact, and
it is narrowed once, so that the carry and the borrow are comparisons of the exact value. -/

namespace Sys2Proof.Machine

/-- What an operation computes: its 8-bit result and the new C.  Z is computed from the result (R64 (c)). -/
structure AluOut where
  result : Byte
  carry : Bool
deriving DecidableEq, Repr

/-- A flag as the number 0 or 1 (R7). -/
def flagNat (b : Bool) : Nat := if b then 1 else 0

/-- Z: 1 when the 8-bit result is 0 (R14). -/
def zeroFlag (result : Byte) : Bool := result == 0

/-- The exact sum `s` narrowed to 8 bits, with the carry out of bit 7 (R65, R73). -/
def sumOut (s : Nat) : AluOut := ⟨BitVec.ofNat 8 s, decide (s > 255)⟩

/-- The exact difference `d` taken modulo 256, with the borrow (R66, R76). -/
def diffOut (d : Int) : AluOut := ⟨BitVec.ofInt 8 d, decide (d < 0)⟩

/-- ADD and ADC: the sum of two bytes and a carry in (R65, R73). -/
def addOut (x y : Byte) (carryIn : Bool) : AluOut := sumOut (x.toNat + y.toNat + flagNat carryIn)

/-- SUB, CMP and SBC: the difference of two bytes and a borrow in; the subtrahend's sum with the borrow is not wrapped
(R66, R72, R76, D20). -/
def subOut (x y : Byte) (borrowIn : Bool) : AluOut :=
  diffOut ((x.toNat : Int) - (y.toNat : Int) - (flagNat borrowIn : Int))

/-- INC, DEC, AND, OR and XOR clear C, whatever the result (R67 to R71). -/
def clearingOut (result : Byte) : AluOut := ⟨result, false⟩

/-- SHL: one place left, a 0 into bit 0, the old bit 7 to C (R74). -/
def shlOut (v : Byte) : AluOut := ⟨v <<< 1, v.getLsbD 7⟩

/-- SHR: one place right, a 0 into bit 7, the old bit 0 to C (R75). -/
def shrOut (v : Byte) : AluOut := ⟨v >>> 1, v.getLsbD 0⟩

/-- Both flags written from an operation's outcome (R15, R64 (d)). -/
def State.setFlags (s : State) (o : AluOut) : State := { s with z := zeroFlag o.result, c := o.carry }

/-- The end of an instruction that writes Ra and both flags. -/
def State.writeResult (s : State) (a : Reg) (o : AluOut) : Result := .next ((s.setReg a o.result).setFlags o).advance

/-- The end of CMP: both flags, no register (R72). -/
def State.writeFlagsOnly (s : State) (o : AluOut) : Result := .next (s.setFlags o).advance

end Sys2Proof.Machine
end

