-- ==== Sys2Proof/Machine/Arithmetic.lean ====
section
/-! DEFINITION. The twelve arithmetic, logic, compare and shift instructions (spec/41_arithmetic_logic.md R65 to R76), in
opcode order.  Each reads its operands and C before it writes anything (R64 (a)). -/

namespace Sys2Proof.Machine

/-- ADD Ra, Rb (R65): the incoming C is not used. -/
def execAdd (a b : Reg) (s : State) : Result := s.writeResult a (addOut (s.reg a) (s.reg b) false)

/-- SUB Ra, Rb (R66): the incoming C is not used. -/
def execSub (a b : Reg) (s : State) : Result := s.writeResult a (subOut (s.reg a) (s.reg b) false)

/-- INC Ra (R67). -/
def execInc (a : Reg) (s : State) : Result := s.writeResult a (clearingOut (s.reg a + 1))

/-- DEC Ra (R68). -/
def execDec (a : Reg) (s : State) : Result := s.writeResult a (clearingOut (s.reg a - 1))

/-- AND Ra, Rb (R69). -/
def execAnd (a b : Reg) (s : State) : Result := s.writeResult a (clearingOut (s.reg a &&& s.reg b))

/-- OR Ra, Rb (R70). -/
def execOr (a b : Reg) (s : State) : Result := s.writeResult a (clearingOut (s.reg a ||| s.reg b))

/-- XOR Ra, Rb (R71). -/
def execXor (a b : Reg) (s : State) : Result := s.writeResult a (clearingOut (s.reg a ^^^ s.reg b))

/-- CMP Ra, Rb (R72): the flags of SUB, no register written. -/
def execCmp (a b : Reg) (s : State) : Result := s.writeFlagsOnly (subOut (s.reg a) (s.reg b) false)

/-- ADC Ra, Rb (R73): C is the carry in. -/
def execAdc (a b : Reg) (s : State) : Result := s.writeResult a (addOut (s.reg a) (s.reg b) s.c)

/-- SHL Ra (R74). -/
def execShl (a : Reg) (s : State) : Result := s.writeResult a (shlOut (s.reg a))

/-- SHR Ra (R75). -/
def execShr (a : Reg) (s : State) : Result := s.writeResult a (shrOut (s.reg a))

/-- SBC Ra, Rb (R76): C is the borrow in. -/
def execSbc (a b : Reg) (s : State) : Result := s.writeResult a (subOut (s.reg a) (s.reg b) s.c)

end Sys2Proof.Machine
end

