-- ==== Sys2Proof/Machine/DataMovement.lean ====
section
/-! DEFINITION. LOADI, LOAD, STORE, MOV (spec/40_data_movement.md R60 to R63).  None writes a flag. -/

namespace Sys2Proof.Machine

/-- LOADI Ra, imm8 (R60). -/
def execLoadi (a : Reg) (imm8 : Byte) (s : State) : Result := .next (s.setReg a imm8).advance

/-- LOAD Ra (R61): the address is formed from the old R6 and R7, then Ra is written, R6 and R7 included. -/
def execLoad (a : Reg) (s : State) : Result :=
  advanceOrFault ((memLoad s s.addrPair).map fun vs => vs.2.setReg a vs.1)

/-- STORE Ra (R62). -/
def execStore (a : Reg) (s : State) : Result := advanceOrFault (memStore s s.addrPair (s.reg a))

/-- MOV Ra, Rb (R63). -/
def execMov (a b : Reg) (s : State) : Result := .next (s.setReg a (s.reg b)).advance

end Sys2Proof.Machine
end

