-- ==== Sys2Proof/Machine/Jump.lean ====
section
/-! DEFINITION. The five jumps (spec/43_jumps.md R81 to R86).  A jump writes PC and nothing else, and never faults. -/

namespace Sys2Proof.Machine

/-- JMP addr16 (R82). -/
def execJmp (addr16 : Word) (s : State) : Result := .next (s.setPc (s.jumpPc true addr16))

/-- JZ addr16 (R83). -/
def execJz (addr16 : Word) (s : State) : Result := .next (s.setPc (s.jumpPc s.z addr16))

/-- JNZ addr16 (R84). -/
def execJnz (addr16 : Word) (s : State) : Result := .next (s.setPc (s.jumpPc (!s.z) addr16))

/-- JC addr16 (R85). -/
def execJc (addr16 : Word) (s : State) : Result := .next (s.setPc (s.jumpPc s.c addr16))

/-- JNC addr16 (R86). -/
def execJnc (addr16 : Word) (s : State) : Result := .next (s.setPc (s.jumpPc (!s.c) addr16))

end Sys2Proof.Machine
end

