-- ==== Sys2Proof/Machine/Stack.lean ====
section
/-! DEFINITION. PUSH and POP (spec/42_stack.md R78 to R80).  Neither writes a flag. -/

namespace Sys2Proof.Machine

/-- PUSH Ra (R79). -/
def execPush (a : Reg) (s : State) : Result := advanceOrFault (pushByte s (s.reg a))

/-- POP Ra (R80). -/
def execPop (a : Reg) (s : State) : Result :=
  advanceOrFault ((popByte s).map fun vs => vs.2.setReg a vs.1)

end Sys2Proof.Machine
end

