-- ==== Sys2Proof/Machine/Subroutine.lean ====
section
/-! DEFINITION. CALL and RET (spec/44_subroutines.md R87 to R90).  Neither writes a flag or a general register. -/

namespace Sys2Proof.Machine

/-- CALL addr16 (R88): the return address is that of the instruction after the CALL. -/
def execCall (addr16 : Word) (s : State) : Result :=
  match push16 s s.pcNext with
  | .ok t => .next (t.setPc addr16)
  | .error f => raiseFault f

/-- RET (R89): whatever two bytes are on top of the stack are the address. -/
def execRet (s : State) : Result :=
  match pop16 s with
  | .ok (v, t) => .next (t.setPc v)
  | .error f => raiseFault f

end Sys2Proof.Machine
end

