-- ==== Sys2Proof/Machine/System.lean ====
section
/-! DEFINITION. HALT (spec/45_halt.md R91). -/

namespace Sys2Proof.Machine

/-- HALT (R91): HALTED is set and PC moves past the instruction (D14; log entry 7). -/
def execHalt (s : State) : Result := .next { s.advance with halted := true }

end Sys2Proof.Machine
end

