-- ==== Sys2Proof/Machine/Dispatch.lean ====
section
/-! DEFINITION. The meaning of every instruction, one arm for each row of spec/opcode_table.json. -/

namespace Sys2Proof.Machine

def exec (i : Instr) (s : State) : Host.Outcome State Fault Refusal :=
  match i with
  | .loadi a imm8 => Sys2Proof.Machine.execLoadi a imm8 s
  | .load a => Sys2Proof.Machine.execLoad a s
  | .store a => Sys2Proof.Machine.execStore a s
  | .mov a b => Sys2Proof.Machine.execMov a b s
  | .add a b => Sys2Proof.Machine.execAdd a b s
  | .sub a b => Sys2Proof.Machine.execSub a b s
  | .inc a => Sys2Proof.Machine.execInc a s
  | .dec a => Sys2Proof.Machine.execDec a s
  | .and a b => Sys2Proof.Machine.execAnd a b s
  | .or a b => Sys2Proof.Machine.execOr a b s
  | .xor a b => Sys2Proof.Machine.execXor a b s
  | .cmp a b => Sys2Proof.Machine.execCmp a b s
  | .adc a b => Sys2Proof.Machine.execAdc a b s
  | .shl a => Sys2Proof.Machine.execShl a s
  | .shr a => Sys2Proof.Machine.execShr a s
  | .sbc a b => Sys2Proof.Machine.execSbc a b s
  | .push a => Sys2Proof.Machine.execPush a s
  | .pop a => Sys2Proof.Machine.execPop a s
  | .jmp addr16 => Sys2Proof.Machine.execJmp addr16 s
  | .jz addr16 => Sys2Proof.Machine.execJz addr16 s
  | .jnz addr16 => Sys2Proof.Machine.execJnz addr16 s
  | .jc addr16 => Sys2Proof.Machine.execJc addr16 s
  | .jnc addr16 => Sys2Proof.Machine.execJnc addr16 s
  | .call addr16 => Sys2Proof.Machine.execCall addr16 s
  | .ret => Sys2Proof.Machine.execRet s
  | .halt => Sys2Proof.Machine.execHalt s

end Sys2Proof.Machine
end

