-- ==== Sys2Proof/Machine/HostMoves.lean ====
section
/-! DEFINITION. What the host does to the platform on its turn (spec/60_exceptions.md R118, spec/10_state.md R22).  The
host changes device state and nothing else: no CPU register, flag, PC, SP, HALTED, TICK or byte of storage. -/

namespace Sys2Proof.Machine

/-- The device state after one host move (R118).  Keys pressed are ORed into the latch (R108, D17).  A swap is processed
only when one is requested, and what the CPU reads from the framebuffer does not change (R114, R117, D22). -/
def Devices.afterMove (d : Devices) : HostMove → Devices
  | .keyChange state newlyPressed => { d with keysState := state, keysPressed := d.keysPressed ||| newlyPressed }
  | .mouseChange x y buttons => { d with mouseX := x.setWidth 8, mouseY := y.setWidth 8, mouseButtons := buttons }
  | .frameTick count => { d with frameCount := count }
  | .processSwap => if d.vsync = 1#8 then { d with vsync := 0#8 } else d

/-- The machine after one host move. -/
def State.afterHostMove (s : State) (move : HostMove) : State := s.setDevices (s.devices.afterMove move)

end Sys2Proof.Machine
end

