-- ==== Sys2Proof/Machine/Cycle.lean ====
section
/-! DEFINITION. The instruction cycle (spec/10_state.md R21, spec/60_exceptions.md R101) and the turns of the CPU and the
host (R22, R118). -/

namespace Sys2Proof.Machine

/-- The three fetch reads, at ascending addresses modulo 65,536, opcode first; the first that is not allowed is the one
reported (R21, R36, R101). -/
def fetch (s : State) : Except Fault InstrBytes :=
  match memFetch s s.pc with
  | .error f => .error f
  | .ok opcode =>
    match memFetch s (s.pc + 1#16) with
    | .error f => .error f
    | .ok arg1 =>
      match memFetch s (s.pc + 2#16) with
      | .error f => .error f
      | .ok arg2 => .ok ⟨opcode, arg1, arg2⟩

/-- The fault that a decode error of the instruction at `pc` is (R95, R96). -/
def decodeFault (pc : Word) : DecodeError → Fault
  | .unknownOpcode opcode => .unknownOpcode pc opcode
  | .invalidRegister byte => .invalidRegister pc byte

/-- One step of the CPU (R21): fetch, decode, execute, count.  When HALTED is 1 the CPU has no step (R17). -/
def cpuStep (s : State) : Result :=
  if s.halted then .refused .halted
  else
    match fetch s with
    | .error f => raiseFault f
    | .ok bytes =>
      match decode bytes with
      | .error e => raiseFault (decodeFault s.pc e)
      | .ok i => countTick (exec i s)

/-- The turns that are due: the rest of the schedule, or, when that is used up, the routine from its start (R22, R118). -/
def State.dueTurns (s : State) : List Turn :=
  match s.schedule with
  | [] => s.routine
  | turn :: rest => turn :: rest

/-- Which turn is the `n`-th to come, for ever: the schedule's, then the routine's over and over, or the CPU's where there
is no routine (R6, R118; log entry 3). -/
def State.turnNumber (s : State) (n : Nat) : Turn :=
  match s.schedule[n]? with
  | some turn => turn
  | none => (s.routine[(n - s.schedule.length) % s.routine.length]?).getD .cpu

/-- One turn: the host's next move if it is due, else one step of the CPU (R22, R118).  With nothing due every turn is the
CPU's. -/
def takeTurn (s : State) : Result :=
  match s.dueTurns with
  | [] => cpuStep s
  | .cpu :: rest => cpuStep (s.setSchedule rest)
  | .host move :: rest => .next ((s.setSchedule rest).afterHostMove move)

/-- The three bytes of an instruction stored at `addr` and the two addresses after it. -/
def State.writeInstr (s : State) (addr : Word) (b : InstrBytes) : State :=
  ((s.writeStorage addr b.opcode).writeStorage (addr + 1#16) b.arg1).writeStorage (addr + 2#16) b.arg2

/-- The schedule with the CPU's turn next: one CPU turn is put before a host move that is due. -/
def State.cpuTurnFirst (s : State) : List Turn :=
  match s.dueTurns with
  | .host _ :: _ => .cpu :: s.schedule
  | .cpu :: _ => s.schedule
  | [] => s.schedule

end Sys2Proof.Machine
end

