-- ==== Sys2Proof/Machine/Step.lean ====
section
/-! DEFINITION. One step of the machine, and the loading of one instruction where the next step fetches. -/

namespace Sys2Proof.Machine

/-- One step: one turn of the host or of the CPU (spec/10_state.md R21, R22).  Three outcomes (R9): a next state (HALT's is
one, with HALTED = 1), a fault, or the refusal of a halted CPU. -/
def step (s : State) : Host.Outcome State Fault Refusal := takeTurn s

/-- `s` with the instruction that spec/opcode_table.json numbers `w` stored at PC, PC + 1 and PC + 2, and the next turn the
CPU's.  It stands for the loading of a program by the launch (R121; log entry 15). -/
def State.withFetchWord (s : State) (nbits w : Nat) : State :=
  (s.writeInstr s.pc (tableWordBytes nbits w)).setSchedule s.cpuTurnFirst

end Sys2Proof.Machine
end

