-- ==== Sys2Proof/Machine/Assembler.lean ====
section
/-! DEFINITION. The assembler syntax that spec/30_encoding.md R56 records, label values and origin (R57), and the
canonical encoding of a program (R59).  The machine does not depend on it: it says which bytes a listing stands for.
What R56 does not show (a directive, an expression, a lower-case spelling, another form of numeral) is an error here
(log entry 18). -/

namespace Sys2Proof.Machine

/-- Text as a list of characters. -/
abbrev Text := List Char

/-- Why a source text is not a program of R56. -/
inductive AsmError where
  /-- Neither an instruction, nor a label with its colon, nor blank. -/
  | badLine
  /-- No mnemonic of the 26 with these operand shapes (R46, R56). -/
  | badInstruction
  /-- An immediate outside 0 to 255 is refused (R59, D25). -/
  | immediateOutOfRange
  /-- A numeral above 65,535 names no address (R49). -/
  | addressOutOfRange
  /-- A label used and not defined. -/
  | undefinedLabel
  /-- A label defined twice. -/
  | duplicateLabel
  /-- More instructions than the code segment holds from 0x0010 (R26, R57). -/
  | programTooLong
deriving DecidableEq, Repr

/-- The six mnemonics that take an address operand (R46). -/
inductive JumpName where
  | jmp | jz | jnz | jc | jnc | call
deriving DecidableEq, Repr

/-- The instruction of a jump mnemonic and an address. -/
def JumpName.instr (j : JumpName) (addr16 : Word) : Instr :=
  match j with
  | .jmp => .jmp addr16
  | .jz => .jz addr16
  | .jnz => .jnz addr16
  | .jc => .jc addr16
  | .jnc => .jnc addr16
  | .call => .call addr16

/-- An operand as written: a register, a numeral, or a name (R56). -/
inductive AsmOperand where
  | reg (r : Reg)
  | number (n : Nat)
  | name (t : Text)
deriving DecidableEq, Repr

/-- An instruction line: complete, or a jump to a label whose value is not known yet. -/
inductive AsmInstr where
  | plain (i : Instr)
  | jumpTo (j : JumpName) (label : Text)
deriving DecidableEq, Repr

/-- One line of a source text (R56). -/
inductive AsmLine where
  | blank
  | label (name : Text)
  | instr (i : AsmInstr)
deriving DecidableEq, Repr

/-! ### Characters and words -/

/-- White space inside a line. -/
def isBlankChar (c : Char) : Bool := c == ' ' || c == '\t' || c == '\r'

/-- The line up to a semicolon, which starts a comment (R56). -/
def withoutComment (t : Text) : Text := t.takeWhile fun c => c != ';'

/-- The text without white space at either end. -/
def trimBlank (t : Text) : Text := ((t.dropWhile isBlankChar).reverse.dropWhile isBlankChar).reverse

/-- The pieces of a text between separators. -/
def splitAt (sep : Char) : Text → List Text
  | [] => [[]]
  | c :: rest =>
    if c = sep then [] :: splitAt sep rest
    else
      match splitAt sep rest with
      | [] => [[c]]
      | piece :: pieces => (c :: piece) :: pieces

/-- The value of a decimal digit. -/
def decimalDigit? (c : Char) : Option Nat :=
  if 48 ≤ c.toNat ∧ c.toNat ≤ 57 then some (c.toNat - 48) else none

/-- The value of a hexadecimal digit, capitals as the examples write them. -/
def hexDigit? (c : Char) : Option Nat :=
  if 65 ≤ c.toNat ∧ c.toNat ≤ 70 then some (c.toNat - 55) else decimalDigit? c

/-- A run of digits in a base, after `acc`. -/
def digitsValue? (base : Nat) (digit? : Char → Option Nat) (acc : Nat) : Text → Option Nat
  | [] => some acc
  | c :: rest =>
    match digit? c with
    | some d => digitsValue? base digit? (acc * base + d) rest
    | none => none

/-- A decimal numeral, or a hexadecimal numeral with the leading `0x` (R56). -/
def numeral? (t : Text) : Option Nat :=
  match t with
  | [] => none
  | ['0', 'x'] => none
  | '0' :: 'x' :: digits => digitsValue? 16 hexDigit? 0 digits
  | digits => digitsValue? 10 decimalDigit? 0 digits

/-- A label's characters: capitals, digits and underscores (R56). -/
def isNameChar (c : Char) : Bool :=
  c == '_' || (decide (65 ≤ c.toNat) && decide (c.toNat ≤ 90)) || (decimalDigit? c).isSome

/-- A label name; it does not begin with a digit, so that no numeral is a name.  R56 does not say whether a label may be
spelled like a register or a mnemonic: here it may (`R0:`, `HALT:`), because a label's line is known by its colon (DESIGN
CHOICE, log entry 18). -/
def isName (t : Text) : Bool :=
  match t with
  | [] => false
  | c :: _ => (decimalDigit? c).isNone && t.all isNameChar

/-- An operand: a register R0 to R7, a numeral, or a name (R56).  It is read as a register first, so a label spelled R0 to
R7 cannot be named by a jump (`JMP R0` is refused); one spelled like a mnemonic can (DESIGN CHOICE, log entry 18). -/
def operand? (t : Text) : Option AsmOperand :=
  match t with
  | ['R', '0'] => some (.reg .r0)
  | ['R', '1'] => some (.reg .r1)
  | ['R', '2'] => some (.reg .r2)
  | ['R', '3'] => some (.reg .r3)
  | ['R', '4'] => some (.reg .r4)
  | ['R', '5'] => some (.reg .r5)
  | ['R', '6'] => some (.reg .r6)
  | ['R', '7'] => some (.reg .r7)
  | _ =>
    match numeral? t with
    | some n => some (.number n)
    | none => if isName t then some (.name t) else none

/-- Every piece as an operand, or none. -/
def operands? : List Text → Option (List AsmOperand)
  | [] => some []
  | t :: rest =>
    match operand? (trimBlank t), operands? rest with
    | some o, some os => some (o :: os)
    | _, _ => none

/-! ### Lines -/

/-- A mnemonic with one register operand (format R, R56). -/
def oneReg? (m : String) : Option (Reg → Instr) :=
  match m with
  | "LOAD" => some .load
  | "STORE" => some .store
  | "INC" => some .inc
  | "DEC" => some .dec
  | "SHL" => some .shl
  | "SHR" => some .shr
  | "PUSH" => some .push
  | "POP" => some .pop
  | _ => none

/-- A mnemonic with two register operands (format RR, R56); the destination is the first. -/
def twoRegs? (m : String) : Option (Reg → Reg → Instr) :=
  match m with
  | "MOV" => some .mov
  | "ADD" => some .add
  | "SUB" => some .sub
  | "AND" => some .and
  | "OR" => some .or
  | "XOR" => some .xor
  | "CMP" => some .cmp
  | "ADC" => some .adc
  | "SBC" => some .sbc
  | _ => none

/-- A mnemonic with an address operand (format A, R56). -/
def jumpName? (m : String) : Option JumpName :=
  match m with
  | "JMP" => some .jmp
  | "JZ" => some .jz
  | "JNZ" => some .jnz
  | "JC" => some .jc
  | "JNC" => some .jnc
  | "CALL" => some .call
  | _ => none

/-- A mnemonic with no operand (format N, R56). -/
def noOperand? (m : String) : Option Instr :=
  match m with
  | "RET" => some .ret
  | "HALT" => some .halt
  | _ => none

/-- A mnemonic and its operands as an instruction, by the shapes of R56. -/
def asmInstr (m : String) (ops : List AsmOperand) : Except AsmError AsmInstr :=
  match ops with
  | [] =>
    match noOperand? m with
    | some i => .ok (.plain i)
    | none => .error .badInstruction
  | [.reg a] =>
    match oneReg? m with
    | some mk => .ok (.plain (mk a))
    | none => .error .badInstruction
  | [.reg a, .reg b] =>
    match twoRegs? m with
    | some mk => .ok (.plain (mk a b))
    | none => .error .badInstruction
  | [.reg a, .number n] =>
    if m = "LOADI" then
      if n ≤ 255 then .ok (.plain (.loadi a (BitVec.ofNat 8 n))) else .error .immediateOutOfRange
    else .error .badInstruction
  | [.number n] =>
    match jumpName? m with
    | some j => if n ≤ 65535 then .ok (.plain (j.instr (BitVec.ofNat 16 n))) else .error .addressOutOfRange
    | none => .error .badInstruction
  | [.name t] =>
    match jumpName? m with
    | some j => .ok (.jumpTo j t)
    | none => .error .badInstruction
  | _ => .error .badInstruction

/-- One line of source text (R56). -/
def asmLine (line : Text) : Except AsmError AsmLine :=
  let t := trimBlank (withoutComment line)
  let word := t.takeWhile fun c => !isBlankChar c
  let rest := trimBlank (t.dropWhile fun c => !isBlankChar c)
  if t = [] then .ok .blank
  else if t.getLast? = some ':' then
    if isName t.dropLast then .ok (.label t.dropLast) else .error .badLine
  else
    match operands? (if rest = [] then [] else splitAt ',' rest) with
    | none => .error .badLine
    | some ops =>
      match asmInstr (String.ofList word) ops with
      | .ok i => .ok (.instr i)
      | .error e => .error e

/-- Every line of a source text. -/
def asmLines : List Text → Except AsmError (List AsmLine)
  | [] => .ok []
  | t :: rest =>
    match asmLine t with
    | .error e => .error e
    | .ok l =>
      match asmLines rest with
      | .error e => .error e
      | .ok ls => .ok (l :: ls)

/-! ### Labels and addresses -/

/-- The value of each label: the address of the first byte of the next instruction after it, instructions lying 3 bytes
apart from `addr` on (R57).  R57 gives no value to a label that no instruction follows (`DONE:` at the end of the source's
example E9): here it is the address just past the last instruction, where the next one would stand (DESIGN CHOICE, log
entry 18). -/
def labelValues (addr : Nat) : List AsmLine → List (Text × Nat)
  | [] => []
  | .blank :: rest => labelValues addr rest
  | .label name :: rest => (name, addr) :: labelValues addr rest
  | .instr _ :: rest => labelValues (addr + 3) rest

/-- The value of a label in the table. -/
def labelValue? (table : List (Text × Nat)) (name : Text) : Option Nat :=
  match table with
  | [] => none
  | (n, v) :: rest => if n = name then some v else labelValue? rest name

/-- No label is defined twice. -/
def labelsDistinct : List (Text × Nat) → Bool
  | [] => true
  | (n, _) :: rest => (labelValue? rest n).isNone && labelsDistinct rest

/-- The instructions of the lines, labels replaced by their values. -/
def resolveLines (table : List (Text × Nat)) : List AsmLine → Except AsmError (List Instr)
  | [] => .ok []
  | .blank :: rest => resolveLines table rest
  | .label _ :: rest => resolveLines table rest
  | .instr (.plain i) :: rest =>
    match resolveLines table rest with
    | .ok is => .ok (i :: is)
    | .error e => .error e
  | .instr (.jumpTo j name) :: rest =>
    match labelValue? table name with
    | none => .error .undefinedLabel
    | some v =>
      match resolveLines table rest with
      | .ok is => .ok (j.instr (BitVec.ofNat 16 v) :: is)
      | .error e => .error e

/-- The address of a program's first instruction (R57, D25). -/
def programOrigin : Nat := 0x0010

/-- The instructions that a list of source lines stands for, in order (R56, R57). -/
def assembleLines (lines : List Text) : Except AsmError (List Instr) :=
  match asmLines lines with
  | .error e => .error e
  | .ok ls =>
    let table := labelValues programOrigin ls
    if labelsDistinct table then
      match resolveLines table ls with
      | .error e => .error e
      | .ok is => if programOrigin + 3 * is.length ≤ 0x2000 then .ok is else .error .programTooLong
    else .error .duplicateLabel

/-- The instructions of a source text. -/
def assemble (source : String) : Except AsmError (List Instr) := assembleLines (splitAt '\n' source.toList)

/-- The bytes of a program at ascending addresses from `addr`, each instruction in its canonical encoding (R45, R59).
With `addr = programOrigin` it is what the program gives a launch as MEM0 (R121). -/
def programImage (addr : Nat) : List Instr → Memory
  | [] => []
  | i :: rest =>
    (addr, (encode i).opcode) :: (addr + 1, (encode i).arg1) :: (addr + 2, (encode i).arg2) ::
      programImage (addr + 3) rest

end Sys2Proof.Machine
end

