-- ==== Sys2Proof/Machine/Launch.lean ====
section
/-! DEFINITION. The state at the start of a launch (spec/70_reset_and_hazards.md R120 to R123, spec/10_state.md R23). -/

namespace Sys2Proof.Machine

/-- MEM0 (R6) as a memory: the bytes of the addresses that are storage.  0xBF00 to 0xBFFF hold device registers and no
storage (R20), and where an address is given twice the first byte stands. -/
def Memory.ofCells : List Host.Cell → Memory
  | [] => []
  | (a, v) :: rest =>
    if a < 0xBF00 ∨ (0xC000 ≤ a ∧ a < 65536) then Memory.insert (Memory.ofCells rest) a v else Memory.ofCells rest

/-- The state at the start of a launch: the state of R23, where the launch chooses the parameters, the memory it defines
(MEM0), what the input registers present, and what the host will do (R6, R120, R121, R123). -/
def State.launch (config : Config) (mem0 : List Host.Cell) (inputs : Inputs) (schedule routine : List Turn)
    (launchId : Nat) : State :=
  { State.reset with
    tick := config.tickReset
    devices := Devices.atReset inputs
    mem := Memory.ofCells mem0
    config := config
    schedule := schedule
    routine := routine
    launchId := launchId }

end Sys2Proof.Machine
end

