-- ==== Sys2Proof/Safety.lean ====
section
/-! DEFINITION. The terms claims use: what stays the same, what an instruction writes (spec/10_state.md R10, R15,
spec/20_memory.md R25, R36), and the invariant of every run (R24). -/

namespace Sys2Proof.Machine

/-! ### What stays the same -/

/-- Every byte of storage reads as before. -/
def SameMemory (s t : State) : Prop := ∀ addr : Word, t.readStorage addr = s.readStorage addr

/-- Every byte of storage outside `stored` reads as before. -/
def SameMemoryOutside (stored : List Word) (s t : State) : Prop :=
  ∀ addr : Word, addr ∉ stored → t.readStorage addr = s.readStorage addr

/-- Every general register but `written` is as before; `none` means all of them. -/
def SameRegsBut (written : Option Reg) (s t : State) : Prop :=
  ∀ r : Reg, some r ≠ written → t.reg r = s.reg r

/-- Z and C are as before. -/
def SameFlags (s t : State) : Prop := t.z = s.z ∧ t.c = s.c

/-- What no instruction's own rule writes: TICK (the cycle counts it, R21) and the model's own fields. -/
structure SameFixed (s t : State) : Prop where
  tick : t.tick = s.tick
  config : t.config = s.config
  schedule : t.schedule = s.schedule
  routine : t.routine = s.routine
  launchId : t.launchId = s.launchId

/-- The frame of an instruction that works on registers: SP, HALTED, the devices, every byte of storage and every
register but `written` are as before.  PC and the flags are not spoken of. -/
structure RegisterFrame (written : Option Reg) (s t : State) : Prop where
  fixed : SameFixed s t
  sp : t.sp = s.sp
  halted : t.halted = s.halted
  devices : t.devices = s.devices
  memory : SameMemory s t
  regs : SameRegsBut written s t

/-- PC is `pc_next`, the address 3 above it modulo 65,536 (R12). -/
def PcPassed (s t : State) : Prop := t.pc.toNat = (s.pc.toNat + 3) % 65536

/-! ### What an instruction writes -/

/-- The general register an instruction writes: its first operand, for the fifteen that write one (R10). -/
def regWritten : Instr → Option Reg
  | .loadi a _ => some a
  | .load a => some a
  | .store _ => none
  | .mov a _ => some a
  | .add a _ => some a
  | .sub a _ => some a
  | .inc a => some a
  | .dec a => some a
  | .and a _ => some a
  | .or a _ => some a
  | .xor a _ => some a
  | .cmp _ _ => none
  | .adc a _ => some a
  | .shl a => some a
  | .shr a => some a
  | .sbc a _ => some a
  | .push _ => none
  | .pop a => some a
  | .jmp _ => none
  | .jz _ => none
  | .jnz _ => none
  | .jc _ => none
  | .jnc _ => none
  | .call _ => none
  | .ret => none
  | .halt => none

/-- The twelve flag writers (R15). -/
def writesFlags : Instr → Bool
  | .loadi _ _ => false
  | .load _ => false
  | .store _ => false
  | .mov _ _ => false
  | .add _ _ => true
  | .sub _ _ => true
  | .inc _ => true
  | .dec _ => true
  | .and _ _ => true
  | .or _ _ => true
  | .xor _ _ => true
  | .cmp _ _ => true
  | .adc _ _ => true
  | .shl _ => true
  | .shr _ => true
  | .sbc _ _ => true
  | .push _ => false
  | .pop _ => false
  | .jmp _ => false
  | .jz _ => false
  | .jnz _ => false
  | .jc _ => false
  | .jnc _ => false
  | .call _ => false
  | .ret => false
  | .halt => false

/-- The readers of C: ADC and SBC as an operand, JC and JNC as a condition (R15). -/
def readsC : Instr → Bool
  | .adc _ _ => true
  | .sbc _ _ => true
  | .jc _ => true
  | .jnc _ => true
  | .loadi _ _ => false
  | .load _ => false
  | .store _ => false
  | .mov _ _ => false
  | .add _ _ => false
  | .sub _ _ => false
  | .inc _ => false
  | .dec _ => false
  | .and _ _ => false
  | .or _ _ => false
  | .xor _ _ => false
  | .cmp _ _ => false
  | .shl _ => false
  | .shr _ => false
  | .push _ => false
  | .pop _ => false
  | .jmp _ => false
  | .jz _ => false
  | .jnz _ => false
  | .call _ => false
  | .ret => false
  | .halt => false

/-- The readers of Z: JZ and JNZ (R15). -/
def readsZ : Instr → Bool
  | .jz _ => true
  | .jnz _ => true
  | .loadi _ _ => false
  | .load _ => false
  | .store _ => false
  | .mov _ _ => false
  | .add _ _ => false
  | .sub _ _ => false
  | .inc _ => false
  | .dec _ => false
  | .and _ _ => false
  | .or _ _ => false
  | .xor _ _ => false
  | .cmp _ _ => false
  | .adc _ _ => false
  | .shl _ => false
  | .shr _ => false
  | .sbc _ _ => false
  | .push _ => false
  | .pop _ => false
  | .jmp _ => false
  | .jc _ => false
  | .jnc _ => false
  | .call _ => false
  | .ret => false
  | .halt => false

/-- The bytes an instruction stores to, computed from the state it starts in: STORE's ADDR where it is storage, PUSH's SP,
CALL's SP and SP - 1 (R25, R36).  A STORE to a device register stores no byte. -/
def storedAddrs (i : Instr) (s : State) : List Word :=
  match i with
  | .store _ => if regionOf s.addrPair = .mmio then [] else [s.addrPair]
  | .push _ => [s.sp]
  | .call _ => [s.sp, s.sp - 1#16]
  | .loadi _ _ => []
  | .load _ => []
  | .mov _ _ => []
  | .add _ _ => []
  | .sub _ _ => []
  | .inc _ => []
  | .dec _ => []
  | .and _ _ => []
  | .or _ _ => []
  | .xor _ _ => []
  | .cmp _ _ => []
  | .adc _ _ => []
  | .shl _ => []
  | .shr _ => []
  | .sbc _ _ => []
  | .pop _ => []
  | .jmp _ => []
  | .jz _ => []
  | .jnz _ => []
  | .jc _ => []
  | .jnc _ => []
  | .ret => []
  | .halt => []

/-- How far an instruction moves SP: PUSH -1, POP +1, CALL -2, RET +2, every other 0 (R13, R24). -/
def spMove : Instr → Int
  | .push _ => -1
  | .pop _ => 1
  | .call _ => -2
  | .ret => 2
  | .loadi _ _ => 0
  | .load _ => 0
  | .store _ => 0
  | .mov _ _ => 0
  | .add _ _ => 0
  | .sub _ _ => 0
  | .inc _ => 0
  | .dec _ => 0
  | .and _ _ => 0
  | .or _ _ => 0
  | .xor _ _ => 0
  | .cmp _ _ => 0
  | .adc _ _ => 0
  | .shl _ => 0
  | .shr _ => 0
  | .sbc _ _ => 0
  | .jmp _ => 0
  | .jz _ => 0
  | .jnz _ => 0
  | .jc _ => 0
  | .jnc _ => 0
  | .halt => 0

/-! ### Addresses, as the permission table of R28 writes them -/

/-- An address that LOAD reads from storage. -/
def LoadableStorage (s : State) (addr : Word) : Prop :=
  addr.toNat ≤ 0x3FFF ∨ (addr.toNat ≤ 0x7FFF ∧ s.config.extRegionIsRam = true) ∨
    (0x8000 ≤ addr.toNat ∧ addr.toNat ≤ 0xBEFF) ∨ 0xC000 ≤ addr.toNat

/-- An address that STORE writes to storage. -/
def StorableStorage (s : State) (addr : Word) : Prop :=
  (0x2000 ≤ addr.toNat ∧ addr.toNat ≤ 0x3FFF) ∨
    (0x4000 ≤ addr.toNat ∧ addr.toNat ≤ 0x7FFF ∧ s.config.extRegionIsRam = true) ∨
    (0x8000 ≤ addr.toNat ∧ addr.toNat ≤ 0xBEFF) ∨ 0xC000 ≤ addr.toNat

/-- The addresses of the nine device registers present (R106). -/
def deviceAddrs : List Word :=
  [0xBF00, 0xBF01, 0xBF02, 0xBF03, 0xBF04, 0xBF20, 0xBF21, 0xBF22, 0xBF23]

/-! ### The invariant of every run (R24) -/

/-- What holds in every state of a run: memory in its canonical form and with no storage behind the device registers
(R20), SP in the stack range (R13, R24 (a)), and the device registers in their value sets (R19, R109, R110, R114). -/
structure State.Inv (s : State) : Prop where
  memCanonical : Memory.wf s.mem = true
  noDeviceStorage : ∀ addr : Word, 0xBF00 ≤ addr.toNat → addr.toNat ≤ 0xBFFF →
    Memory.lookup s.mem addr.toNat = none
  spLow : 0x8000 ≤ s.sp.toNat
  spHigh : s.sp.toNat ≤ 0xBEFF
  mouseX : s.devices.mouseX.toNat ≤ 127
  mouseY : s.devices.mouseY.toNat ≤ 127
  vsync : s.devices.vsync = 0#8 ∨ s.devices.vsync = 1#8

/-- It is the CPU's turn, and `s'` is what the CPU starts from: the state with that turn taken off those due (R22). -/
def CpuTurn (s s' : State) : Prop :=
  (s.dueTurns = [] ∧ s' = s) ∨ (∃ rest, s.dueTurns = .cpu :: rest ∧ s' = s.setSchedule rest)

/-- The byte at `addr` may be fetched: it lies in the code segment (R28). -/
def InCode (addr : Word) : Prop := 0x0010 ≤ addr.toNat ∧ addr.toNat ≤ 0x1FFF

/-- A run of `n` turns (Host.Core.run), from `s`. -/
def runs (n : Nat) (s : State) : Result := Host.Core.run Sys2Proof.core n s

/-! ### Any host (R6 HOST, HOST_PROCESSES_SWAP) -/

/-- HOST as an argument (R6): an unconstrained oracle that says of every turn, for ever, whose it is and what the host
chooses then.  It may give the host every turn from some point on, or all of them, so that the CPU never steps again: the
spec lets the host make any number of moves between two CPU steps (R118) and does not say that the CPU's next step comes
(DESIGN CHOICE, log entry 3). -/
abbrev HostOracle := Nat → Turn

/-- A run of `n` turns from `s` in which the turns are those of `host` from number `k` on. -/
def runUnder (host : HostOracle) (k : Nat) : Nat → State → Result
  | 0, s => .next s
  | n + 1, s =>
    match step (s.setSchedule [host k]) with
    | .next t => runUnder host (k + 1) n t
    | .fault f => .fault f
    | .refused r => .refused r

/-- The fairness assumption HOST_PROCESSES_SWAP (R6, R114, D27): in the run from `s` under `host`, a swap that is requested
is processed at some later turn.  It is OPEN in the spec: nothing in the model assumes it, and a claim that needs it has it
as a hypothesis.  It says nothing of the CPU's turns, so that a wait on VSYNC ends in the program needs the further
hypothesis that the CPU's turn comes again and again (log entries 3, 19). -/
def HostProcessesSwap (host : HostOracle) (s : State) : Prop :=
  ∀ (n : Nat) (t : State), runUnder host 0 n s = .next t → t.devices.vsync = 1 →
    ∃ m, n ≤ m ∧ host m = .host .processSwap

/-- `n` executions of PUSH Ra one after another, stopping at the first that answers no next state. -/
def pushTimes (a : Reg) : Nat → State → Result
  | 0, s => .next s
  | n + 1, s =>
    match exec (.push a) s with
    | .next t => pushTimes a n t
    | .fault f => .fault f
    | .refused r => .refused r

/-! ### Shapes that several claims share -/

/-- The bytes `b` are the canonical encoding of `i`, and they decode to it (R46, R51, R59). -/
def Spelled (b : InstrBytes) (i : Instr) : Prop := encode i = b ∧ decode b = .ok i

/-- `i` completes from `s`: Ra takes the number `value`, Z says whether it is 0, C says `carry`, PC passes the
instruction, and everything else is as before. -/
def AluEffect (i : Instr) (a : Reg) (s : State) (value : Nat) (carry : Prop) : Prop :=
  ∃ t, exec i s = .next t ∧ (t.reg a).toNat = value ∧ (t.z = true ↔ value = 0) ∧ (t.c = true ↔ carry) ∧
    PcPassed s t ∧ RegisterFrame (some a) s t

/-- `i` completes from `s`, PC is `target`, and everything else is as before (R81). -/
def JumpEffect (i : Instr) (s : State) (target : Word) : Prop :=
  ∃ t, exec i s = .next t ∧ t.pc = target ∧ SameFlags s t ∧ RegisterFrame none s t

/-- The bytes of an instruction with its ignored bytes written 0x00 (R50, R59). -/
def canonicalBytes (f : Format) (b : InstrBytes) : InstrBytes :=
  match f with
  | .ri => b
  | .r => { b with arg2 := 0x00#8 }
  | .rr => b
  | .a => b
  | .n => { b with arg1 := 0x00#8, arg2 := 0x00#8 }

/-- The opcode byte of a row (R51). -/
def opcodeOfRow (row : OpcodeRow) : Byte := row.pattern.extractLsb' 16 8

/-- The instructions that can raise a fault of their own at execution (R94). -/
def mayFault : Instr → Bool
  | .load _ => true
  | .store _ => true
  | .push _ => true
  | .pop _ => true
  | .call _ => true
  | .ret => true
  | .loadi _ _ => false
  | .mov _ _ => false
  | .add _ _ => false
  | .sub _ _ => false
  | .inc _ => false
  | .dec _ => false
  | .and _ _ => false
  | .or _ _ => false
  | .xor _ _ => false
  | .cmp _ _ => false
  | .adc _ _ => false
  | .shl _ => false
  | .shr _ => false
  | .sbc _ _ => false
  | .jmp _ => false
  | .jz _ => false
  | .jnz _ => false
  | .jc _ => false
  | .jnc _ => false
  | .halt => false

end Sys2Proof.Machine
end

