-- ==== Sys2Proof/Certificates/Slice0/Obligations.lean ====
section
/-! DEFINITION. The statements for the provers.  Each docstring names the rules of spec/ it formalises; where a clause rests
on a decision of the spec (D<n>, 92_eei_decisions.md) or of the model, the docstring says so.  Encodings are as each
instruction's own rule writes them (`20 aa bb`; log entry 11). -/

open Sys2Proof Sys2Proof.Machine

/-! ### Data movement -/

/-- R60: LOADI puts the immediate into any register, flags and all else as before, and is the bytes `10 aa ii`. -/
def Obligations.LoadiWritesTheImmediate : Prop :=
  ∀ (a : Reg) (imm8 : Byte) (s : State),
    Spelled ⟨0x10, a.toByte, imm8⟩ (.loadi a imm8) ∧
    ∃ t, exec (.loadi a imm8) s = .next t ∧ t.reg a = imm8 ∧ SameFlags s t ∧ PcPassed s t ∧
      RegisterFrame (some a) s t

/-- R63: MOV copies Rb to Ra, and is the bytes `13 aa bb`. -/
def Obligations.MovCopiesTheSecondOperand : Prop :=
  ∀ (a b : Reg) (s : State),
    Spelled ⟨0x13, a.toByte, b.toByte⟩ (.mov a b) ∧
    ∃ t, exec (.mov a b) s = .next t ∧ t.reg a = s.reg b ∧ SameFlags s t ∧ PcPassed s t ∧
      RegisterFrame (some a) s t

/-- R61 for an address of storage.  Which addresses LOAD may read is the spec's table R28 (decisions D6, D9). -/
def Obligations.LoadReadsStorage : Prop :=
  ∀ (a : Reg) (s : State), LoadableStorage s s.addrPair →
    s.addrPair.toNat = (s.reg .r6).toNat * 256 + (s.reg .r7).toNat ∧
    ∃ t, exec (.load a) s = .next t ∧ t.reg a = s.readStorage s.addrPair ∧ SameFlags s t ∧ PcPassed s t ∧
      RegisterFrame (some a) s t

/-- R61 and R106 for an address of a device register: the value of each, and the one side effect, that a LOAD of
KEYS_PRESSED clears it (R37, R108).  TICK is read before this LOAD counts (decision D15, log entry 6). -/
def Obligations.LoadReadsDeviceRegisters : Prop :=
  ∀ (a : Reg) (s : State), s.addrPair ∈ deviceAddrs →
    ∃ t, exec (.load a) s = .next t ∧
      (s.addrPair = 0xBF00 → t.reg a = s.devices.keysState) ∧
      (s.addrPair = 0xBF01 → t.reg a = s.devices.keysPressed) ∧
      (s.addrPair = 0xBF02 → t.reg a = s.devices.mouseX) ∧
      (s.addrPair = 0xBF03 → t.reg a = s.devices.mouseY) ∧
      (s.addrPair = 0xBF04 → t.reg a = s.devices.mouseButtons) ∧
      (s.addrPair = 0xBF20 → (t.reg a).toNat = s.tick.toNat % 256) ∧
      (s.addrPair = 0xBF21 → (t.reg a).toNat = s.tick.toNat / 256) ∧
      (s.addrPair = 0xBF22 → t.reg a = s.devices.frameCount) ∧
      (s.addrPair = 0xBF23 → t.reg a = s.devices.vsync) ∧
      t.devices = (if s.addrPair = 0xBF01 then { s.devices with keysPressed := 0 } else s.devices) ∧
      SameFlags s t ∧ PcPassed s t ∧ SameFixed s t ∧ t.sp = s.sp ∧ t.halted = s.halted ∧ SameMemory s t ∧
      SameRegsBut (some a) s t

/-- R97, R98: where LOAD stops, and that it stops nowhere else.  That these accesses are faults is the spec's decision
(D9, D11). -/
def Obligations.LoadStopsWhereNothingIsReadable : Prop :=
  ∀ (a : Reg) (s : State),
    (0x4000 ≤ s.addrPair.toNat → s.addrPair.toNat ≤ 0x7FFF → s.config.extRegionIsRam = false →
      exec (.load a) s = .fault (.invalidMemoryAccess .load s.addrPair)) ∧
    (0xBF00 ≤ s.addrPair.toNat → s.addrPair.toNat ≤ 0xBFFF → s.addrPair ∉ deviceAddrs →
      exec (.load a) s = .fault (.undefinedMMIOAccess .load s.addrPair none)) ∧
    (∀ f, exec (.load a) s = .fault f → ¬ LoadableStorage s s.addrPair ∧ s.addrPair ∉ deviceAddrs)

/-- R62 for an address of storage: the byte, and every other byte as before.  Which addresses STORE may write is the
spec's table R28 (decisions D6 to D9). -/
def Obligations.StoreWritesStorage : Prop :=
  ∀ (a : Reg) (s : State), StorableStorage s s.addrPair →
    ∃ t, exec (.store a) s = .next t ∧ t.readStorage s.addrPair = s.reg a ∧
      SameMemoryOutside [s.addrPair] s t ∧ SameFlags s t ∧ PcPassed s t ∧ SameFixed s t ∧ t.sp = s.sp ∧
      t.halted = s.halted ∧ t.devices = s.devices ∧ SameRegsBut none s t

/-- R62, R114: a STORE of 1 to 0xBF23 sets VSYNC to 1 and writes no byte of storage.  The value 1 for a pending swap is
the spec's decision D16 (log entry 5). -/
def Obligations.StoreToVsyncRequestsASwap : Prop :=
  ∀ (a : Reg) (s : State), s.addrPair = 0xBF23 → s.reg a = 1 →
    ∃ t, exec (.store a) s = .next t ∧ t.devices = { s.devices with vsync := 1 } ∧ SameMemory s t ∧
      SameFlags s t ∧ PcPassed s t ∧ SameFixed s t ∧ t.sp = s.sp ∧ t.halted = s.halted ∧ SameRegsBut none s t

/-- R97, R98, R38: where STORE stops, and that it stops nowhere else.  That these accesses are faults is the spec's
decision (D7, D8, D9, D11, D16). -/
def Obligations.StoreStopsWhereNothingIsWritable : Prop :=
  ∀ (a : Reg) (s : State),
    (s.addrPair.toNat ≤ 0x1FFF → exec (.store a) s = .fault (.invalidMemoryAccess .store s.addrPair)) ∧
    (0x4000 ≤ s.addrPair.toNat → s.addrPair.toNat ≤ 0x7FFF → s.config.extRegionIsRam = false →
      exec (.store a) s = .fault (.invalidMemoryAccess .store s.addrPair)) ∧
    (0xBF00 ≤ s.addrPair.toNat → s.addrPair.toNat ≤ 0xBFFF → ¬ (s.addrPair = 0xBF23 ∧ s.reg a = 1) →
      exec (.store a) s = .fault (.undefinedMMIOAccess .store s.addrPair (some (s.reg a)))) ∧
    (∀ f, exec (.store a) s = .fault f →
      ¬ StorableStorage s s.addrPair ∧ ¬ (s.addrPair = 0xBF23 ∧ s.reg a = 1))

/-- R61, R62, R40 (b): a byte stored is the byte loaded next from the same address, into any register. -/
def Obligations.StoreThenLoadReturnsTheByte : Prop :=
  ∀ (a b : Reg) (s : State), StorableStorage s s.addrPair →
    ∃ t u, exec (.store a) s = .next t ∧ exec (.load b) t = .next u ∧ u.reg b = s.reg a ∧
      SameRegsBut (some b) s u ∧ SameMemoryOutside [s.addrPair] s u ∧ SameFlags s u

/-! ### Arithmetic and logic -/

/-- R65: ADD, the bytes `20 aa bb`: sum modulo 256, Z from the result, C the carry; the incoming C is not used. -/
def Obligations.AddWritesSumAndCarry : Prop :=
  ∀ (a b : Reg) (s : State),
    Spelled ⟨0x20, a.toByte, b.toByte⟩ (.add a b) ∧
    AluEffect (.add a b) a s (((s.reg a).toNat + (s.reg b).toNat) % 256)
      ((s.reg a).toNat + (s.reg b).toNat > 255)

/-- R66: SUB, the bytes `21 aa bb`: difference modulo 256, C the borrow. -/
def Obligations.SubWritesDifferenceAndBorrow : Prop :=
  ∀ (a b : Reg) (s : State),
    Spelled ⟨0x21, a.toByte, b.toByte⟩ (.sub a b) ∧
    AluEffect (.sub a b) a s (((s.reg a).toNat + 256 - (s.reg b).toNat) % 256)
      ((s.reg a).toNat < (s.reg b).toNat)

/-- R67, R68: INC and DEC, the bytes `22 aa xx` and `23 aa xx` with arg2 ignored: modulo 256, C always cleared.  That
arg2 is ignored is the spec's decision D4 (log entry 11). -/
def Obligations.IncDecWrapAndClearCarry : Prop :=
  ∀ (a : Reg) (x : Byte) (s : State),
    decode ⟨0x22, a.toByte, x⟩ = .ok (.inc a) ∧
    AluEffect (.inc a) a s (((s.reg a).toNat + 1) % 256) False ∧
    decode ⟨0x23, a.toByte, x⟩ = .ok (.dec a) ∧
    AluEffect (.dec a) a s (((s.reg a).toNat + 255) % 256) False

/-- R69, R70, R71: AND, OR and XOR, the bytes `24 aa bb`, `25 aa bb`, `26 aa bb`: bit by bit, C always cleared. -/
def Obligations.LogicIsBitwiseAndClearsCarry : Prop :=
  ∀ (a b : Reg) (s : State),
    Spelled ⟨0x24, a.toByte, b.toByte⟩ (.and a b) ∧
    AluEffect (.and a b) a s ((s.reg a).toNat &&& (s.reg b).toNat) False ∧
    Spelled ⟨0x25, a.toByte, b.toByte⟩ (.or a b) ∧
    AluEffect (.or a b) a s ((s.reg a).toNat ||| (s.reg b).toNat) False ∧
    Spelled ⟨0x26, a.toByte, b.toByte⟩ (.xor a b) ∧
    AluEffect (.xor a b) a s ((s.reg a).toNat ^^^ (s.reg b).toNat) False

/-- R72: CMP, the bytes `27 aa bb`: the three rows of its table, and no register written.  C when equal and Z when less
are the spec's decision D21 (log entry 17). -/
def Obligations.CmpOrdersWithoutWriting : Prop :=
  ∀ (a b : Reg) (s : State),
    Spelled ⟨0x27, a.toByte, b.toByte⟩ (.cmp a b) ∧
    ∃ t, exec (.cmp a b) s = .next t ∧
      ((s.reg a).toNat = (s.reg b).toNat → t.z = true ∧ t.c = false) ∧
      ((s.reg a).toNat < (s.reg b).toNat → t.z = false ∧ t.c = true) ∧
      ((s.reg a).toNat > (s.reg b).toNat → t.z = false ∧ t.c = false) ∧
      PcPassed s t ∧ RegisterFrame none s t

/-- R73: ADC, the bytes `28 aa bb`: the sum with the flag C as it was, modulo 256, and its carry. -/
def Obligations.AdcAddsTheCarry : Prop :=
  ∀ (a b : Reg) (s : State),
    Spelled ⟨0x28, a.toByte, b.toByte⟩ (.adc a b) ∧
    AluEffect (.adc a b) a s (((s.reg a).toNat + (s.reg b).toNat + (if s.c then 1 else 0)) % 256)
      ((s.reg a).toNat + (s.reg b).toNat + (if s.c then 1 else 0) > 255)

/-- R74, R75: SHL and SHR, the bytes `29 aa xx` and `2A aa xx` with arg2 ignored: by one place, a 0 shifted in, the bit
shifted out to C.  That arg2 is ignored is the spec's decision D4 (log entry 11). -/
def Obligations.ShiftsMoveOneBitIntoCarry : Prop :=
  ∀ (a : Reg) (x : Byte) (s : State),
    decode ⟨0x29, a.toByte, x⟩ = .ok (.shl a) ∧
    AluEffect (.shl a) a s ((s.reg a).toNat * 2 % 256) ((s.reg a).toNat ≥ 128) ∧
    decode ⟨0x2A, a.toByte, x⟩ = .ok (.shr a) ∧
    AluEffect (.shr a) a s ((s.reg a).toNat / 2) ((s.reg a).toNat % 2 = 1)

/-- R76: SBC, the bytes `2B aa bb`: the difference with the flag C as it was.  That the sum of Rb and C is not wrapped is
the spec's decision D20 (log entry 17). -/
def Obligations.SbcSubtractsTheBorrow : Prop :=
  ∀ (a b : Reg) (s : State),
    Spelled ⟨0x2B, a.toByte, b.toByte⟩ (.sbc a b) ∧
    AluEffect (.sbc a b) a s (((s.reg a).toNat + 512 - (s.reg b).toNat - (if s.c then 1 else 0)) % 256)
      ((s.reg a).toNat < (s.reg b).toNat + (if s.c then 1 else 0))

/-- R72, R66: CMP sets the flags SUB sets and changes nothing else: it is SUB with Ra put back. -/
def Obligations.CmpIsSubWithoutTheResult : Prop :=
  ∀ (a b : Reg) (s t : State), exec (.sub a b) s = .next t →
    exec (.cmp a b) s = .next (t.setReg a (s.reg a))

/-- R77 (e) for two bytes, derived in the spec from R65 and R73: ADD on the low bytes and then ADC on the high bytes add
the 16-bit numbers, with C the carry out of the whole sum. -/
def Obligations.AddThenAdcAddsTwoByteNumbers : Prop :=
  ∀ (ah al bh bl : Reg) (s : State), ah ≠ al → bh ≠ al → ∃ t u,
    exec (.add al bl) s = .next t ∧ exec (.adc ah bh) t = .next u ∧
    (u.reg ah ++ u.reg al : Word).toNat =
      ((s.reg ah ++ s.reg al : Word).toNat + (s.reg bh ++ s.reg bl : Word).toNat) % 65536 ∧
    (u.c = true ↔ (s.reg ah ++ s.reg al : Word).toNat + (s.reg bh ++ s.reg bl : Word).toNat > 65535)

/-- R77 (e) for two bytes, derived in the spec from R66 and R76 (decision D20): SUB on the low bytes and then SBC on the
high bytes subtract the 16-bit numbers, with C the borrow of the whole difference. -/
def Obligations.SubThenSbcSubtractsTwoByteNumbers : Prop :=
  ∀ (ah al bh bl : Reg) (s : State), ah ≠ al → bh ≠ al → ∃ t u,
    exec (.sub al bl) s = .next t ∧ exec (.sbc ah bh) t = .next u ∧
    (u.reg ah ++ u.reg al : Word).toNat =
      ((s.reg ah ++ s.reg al : Word).toNat + 65536 - (s.reg bh ++ s.reg bl : Word).toNat) % 65536 ∧
    (u.c = true ↔ (s.reg ah ++ s.reg al : Word).toNat < (s.reg bh ++ s.reg bl : Word).toNat)

/-! ### The stack and subroutines -/

/-- R79: PUSH stores at SP and then SP goes down by 1.  That PUSH goes on exactly where SP stays at 0x8000 or above is the
spec's decision D12. -/
def Obligations.PushStoresThenDecrementsSp : Prop :=
  ∀ (a : Reg) (s : State), 0x8001 ≤ s.sp.toNat →
    ∃ t, exec (.push a) s = .next t ∧ t.readStorage s.sp = s.reg a ∧ SameMemoryOutside [s.sp] s t ∧
      t.sp.toNat = s.sp.toNat - 1 ∧ SameFlags s t ∧ PcPassed s t ∧ SameFixed s t ∧ t.halted = s.halted ∧
      t.devices = s.devices ∧ SameRegsBut none s t

/-- R80: POP moves SP up by 1 and then reads there; the byte stays in memory.  That POP goes on exactly where SP stays at
0xBEFF or below is the spec's decision D12. -/
def Obligations.PopIncrementsSpThenReads : Prop :=
  ∀ (a : Reg) (s : State), s.sp.toNat < 0xBEFF →
    ∃ t, exec (.pop a) s = .next t ∧ t.sp.toNat = s.sp.toNat + 1 ∧ t.reg a = s.readStorage t.sp ∧
      SameMemory s t ∧ SameFlags s t ∧ PcPassed s t ∧ SameFixed s t ∧ t.halted = s.halted ∧
      t.devices = s.devices ∧ SameRegsBut (some a) s t

/-- R79, R80: a byte pushed is the byte popped, and SP returns. -/
def Obligations.PushThenPopReturnsTheByte : Prop :=
  ∀ (a b : Reg) (s : State), 0x8001 ≤ s.sp.toNat → s.sp.toNat ≤ 0xBEFF →
    ∃ t u, exec (.push a) s = .next t ∧ exec (.pop b) t = .next u ∧ u.reg b = s.reg a ∧ u.sp = s.sp ∧
      SameRegsBut (some b) s u ∧ SameFlags s u

/-- R87, R88: CALL stores the two bytes of the next instruction's address at SP and SP - 1, in the order RET_ADDR_LAYOUT
says (D13), SP goes down by 2 and PC is the target.  Where it goes on is the spec's decision D12. -/
def Obligations.CallPushesTheReturnAddress : Prop :=
  ∀ (addr16 : Word) (s : State), 0x8002 ≤ s.sp.toNat →
    ∃ t, exec (.call addr16) s = .next t ∧ t.pc = addr16 ∧ t.sp.toNat = s.sp.toNat - 2 ∧
      (s.config.retAddrLayout = .hiAtHigher →
        (t.readStorage s.sp).toNat = (s.pc.toNat + 3) % 65536 / 256 ∧
        (t.readStorage (s.sp - 1#16)).toNat = (s.pc.toNat + 3) % 256) ∧
      (s.config.retAddrLayout = .hiAtLower →
        (t.readStorage s.sp).toNat = (s.pc.toNat + 3) % 256 ∧
        (t.readStorage (s.sp - 1#16)).toNat = (s.pc.toNat + 3) % 65536 / 256) ∧
      SameMemoryOutside [s.sp, s.sp - 1#16] s t ∧ SameFlags s t ∧ SameFixed s t ∧ t.halted = s.halted ∧
      t.devices = s.devices ∧ SameRegsBut none s t

/-- R87, R89: RET takes the two bytes above SP as an address, in the order RET_ADDR_LAYOUT says (D13), and SP goes up by 2.
Where it goes on is the spec's decision D12. -/
def Obligations.RetTakesPcFromTheStack : Prop :=
  ∀ s : State, s.sp.toNat < 0xBEFE →
    ∃ t, exec .ret s = .next t ∧ t.sp.toNat = s.sp.toNat + 2 ∧
      (s.config.retAddrLayout = .hiAtHigher →
        t.pc.toNat = (s.readStorage (s.sp + 2#16)).toNat * 256 + (s.readStorage (s.sp + 1#16)).toNat) ∧
      (s.config.retAddrLayout = .hiAtLower →
        t.pc.toNat = (s.readStorage (s.sp + 1#16)).toNat * 256 + (s.readStorage (s.sp + 2#16)).toNat) ∧
      SameMemory s t ∧ SameFlags s t ∧ SameFixed s t ∧ t.halted = s.halted ∧ t.devices = s.devices ∧
      SameRegsBut none s t

/-- R87 "Under either value POP16 returns what the matching PUSH16 pushed": a RET executed in any later state with SP where
CALL left it and CALL's two bytes unchanged goes to the instruction after the CALL and gives SP back. -/
def Obligations.RetReturnsAfterTheMatchingCall : Prop :=
  ∀ (addr16 : Word) (s : State), 0x8002 ≤ s.sp.toNat → s.sp.toNat ≤ 0xBEFF →
    ∃ t, exec (.call addr16) s = .next t ∧
      ∀ w : State, w.sp = t.sp → w.config = t.config → w.readStorage s.sp = t.readStorage s.sp →
        w.readStorage (s.sp - 1#16) = t.readStorage (s.sp - 1#16) →
        ∃ u, exec .ret w = .next u ∧ u.pc.toNat = (s.pc.toNat + 3) % 65536 ∧ u.sp = s.sp

/-- R99, R100: exactly where the four stack instructions stop, and with which fault.  That they stop there is the spec's
decision D12. -/
def Obligations.StackFaultsExactlyAtTheBounds : Prop :=
  ∀ (a : Reg) (addr16 : Word) (s : State),
    (exec (.push a) s = .fault (.stackOverflow s.sp) ↔ s.sp.toNat < 0x8001) ∧
    (exec (.call addr16) s = .fault (.stackOverflow s.sp) ↔ s.sp.toNat < 0x8002) ∧
    (exec (.pop a) s = .fault (.stackUnderflow s.sp) ↔ 0xBEFF ≤ s.sp.toNat) ∧
    (exec .ret s = .fault (.stackUnderflow s.sp) ↔ 0xBEFE ≤ s.sp.toNat)

/-- R78: "The most bytes the stack can hold without a fault is 16,127": from the empty stack, 16,127 pushes complete and
every further one overflows (decision D12). -/
def Obligations.StackHoldsExactly16127Bytes : Prop :=
  ∀ (a : Reg) (n : Nat) (s : State), s.sp = 0xBEFF →
    (n ≤ 16127 → ∃ t, pushTimes a n s = .next t ∧ t.sp.toNat = 0xBEFF - n) ∧
    (16127 < n → pushTimes a n s = .fault (.stackOverflow 0x8000))

/-! ### Jumps -/

/-- R82 to R86: each jump, its bytes with the address high byte first, the PC it leaves taken and not taken, and that
nothing else changes. -/
def Obligations.JumpsWritePcAndNothingElse : Prop :=
  ∀ (hi lo : Byte) (target : Word) (s : State), target.toNat = hi.toNat * 256 + lo.toNat →
    (Spelled ⟨0x30, hi, lo⟩ (.jmp target) ∧ JumpEffect (.jmp target) s target) ∧
    (Spelled ⟨0x31, hi, lo⟩ (.jz target) ∧
      (s.z = true → JumpEffect (.jz target) s target) ∧ (s.z = false → JumpEffect (.jz target) s (s.pc + 3#16))) ∧
    (Spelled ⟨0x32, hi, lo⟩ (.jnz target) ∧
      (s.z = false → JumpEffect (.jnz target) s target) ∧ (s.z = true → JumpEffect (.jnz target) s (s.pc + 3#16))) ∧
    (Spelled ⟨0x33, hi, lo⟩ (.jc target) ∧
      (s.c = true → JumpEffect (.jc target) s target) ∧ (s.c = false → JumpEffect (.jc target) s (s.pc + 3#16))) ∧
    (Spelled ⟨0x34, hi, lo⟩ (.jnc target) ∧
      (s.c = false → JumpEffect (.jnc target) s target) ∧ (s.c = true → JumpEffect (.jnc target) s (s.pc + 3#16)))

/-- R85, R86 after R72: after CMP Ra, Rb, JC is taken exactly when Ra < Rb unsigned, JNC exactly when Ra >= Rb, JZ exactly
when they are equal, JNZ exactly when they differ. -/
def Obligations.CompareThenJumpBranchesOnUnsignedOrder : Prop :=
  ∀ (a b : Reg) (addr16 : Word) (s : State), addr16.toNat ≠ (s.pc.toNat + 6) % 65536 → ∃ t,
    exec (.cmp a b) s = .next t ∧
    ((∃ u, exec (.jc addr16) t = .next u ∧ u.pc = addr16) ↔ (s.reg a).toNat < (s.reg b).toNat) ∧
    ((∃ u, exec (.jnc addr16) t = .next u ∧ u.pc = addr16) ↔ (s.reg b).toNat ≤ (s.reg a).toNat) ∧
    ((∃ u, exec (.jz addr16) t = .next u ∧ u.pc = addr16) ↔ s.reg a = s.reg b) ∧
    ((∃ u, exec (.jnz addr16) t = .next u ∧ u.pc = addr16) ↔ s.reg a ≠ s.reg b)

/-! ### HALT, the cycle and the host -/

/-- R91: HALT sets HALTED and changes nothing else but PC.  That PC passes the HALT is the spec's decision D14 (log entry
7). -/
def Obligations.HaltSetsHalted : Prop :=
  ∀ s : State, ∃ t, exec .halt s = .next t ∧ t.halted = true ∧ PcPassed s t ∧ SameFlags s t ∧ SameFixed s t ∧
    t.sp = s.sp ∧ t.devices = s.devices ∧ SameMemory s t ∧ SameRegsBut none s t

/-- R17: "When HALTED is 1 the CPU has no step"; R118: the host's turn goes on.  That the missing step is the refusal
`halted` is the model's choice (log entry 10). -/
def Obligations.HaltedCpuHasNoStep : Prop :=
  ∀ s : State, s.halted = true →
    (∀ s', CpuTurn s s' → step s = .refused .halted) ∧
    (∀ m rest, s.dueTurns = .host m :: rest → ∃ t, step s = .next t ∧ t.halted = true)

/-- R21: when it is the CPU's turn and the three bytes at PC decode to `i`, step is exec of `i`, from the state with that
turn taken, with TICK counted on a next state; a fault is passed on.  What TICK counts is the spec's decision D15 (log
entry 6). -/
def Obligations.StepRunsTheDecodedInstruction : Prop :=
  ∀ (s s' : State) (i : Instr), CpuTurn s s' → s.halted = false → 0x0010 ≤ s.pc.toNat → s.pc.toNat ≤ 0x1FFD →
    decode ⟨s.readStorage s.pc, s.readStorage (s.pc + 1#16), s.readStorage (s.pc + 2#16)⟩ = .ok i →
    (∀ t, exec i s' = .next t → step s = .next (t.setTick (t.tick + 1#16))) ∧
    (∀ f, exec i s' = .fault f → step s = .fault f)

/-- R101, R95 to R97: the order in which the cycle's own faults are reported: the fetch of the opcode, of arg1, of arg2,
then an unknown opcode or a register byte.  That these are faults is the spec's decision (D2, D5, D10, D26). -/
def Obligations.FetchAndDecodeFaultsInOrder : Prop :=
  ∀ (s s' : State), CpuTurn s s' → s.halted = false →
    (¬ InCode s.pc → step s = .fault (.invalidMemoryAccess .fetch s.pc)) ∧
    (InCode s.pc → ¬ InCode (s.pc + 1#16) → step s = .fault (.invalidMemoryAccess .fetch (s.pc + 1#16))) ∧
    (InCode s.pc → InCode (s.pc + 1#16) → ¬ InCode (s.pc + 2#16) →
      step s = .fault (.invalidMemoryAccess .fetch (s.pc + 2#16))) ∧
    (InCode s.pc → InCode (s.pc + 1#16) → InCode (s.pc + 2#16) →
      (∀ op, decode ⟨s.readStorage s.pc, s.readStorage (s.pc + 1#16), s.readStorage (s.pc + 2#16)⟩ =
          .error (.unknownOpcode op) → step s = .fault (.unknownOpcode s.pc op)) ∧
      (∀ b, decode ⟨s.readStorage s.pc, s.readStorage (s.pc + 1#16), s.readStorage (s.pc + 2#16)⟩ =
          .error (.invalidRegister b) → step s = .fault (.invalidRegister s.pc b)))

/-- R35, R24 (c): every instruction the CPU executes was fetched whole from the code segment (decision D10). -/
def Obligations.CpuExecutesOnlyFromTheCodeSegment : Prop :=
  ∀ s s' t : State, CpuTurn s s' → step s = .next t → 0x0010 ≤ s.pc.toNat ∧ s.pc.toNat ≤ 0x1FFD

/-- R18, R128: every step of the CPU that answers counts one tick, and a turn of the host counts none (decision D15, log
entry 6). -/
def Obligations.TickCountsCompletedInstructions : Prop :=
  ∀ s t : State, step s = .next t →
    (∀ s', CpuTurn s s' → t.tick.toNat = (s.tick.toNat + 1) % 65536) ∧
    (∀ m rest, s.dueTurns = .host m :: rest → t.tick = s.tick)

/-- R118, R22: what each move of the host does to the devices, and that a turn of the host changes nothing else but the
turns that are due (decisions D17, D24, D28, D29). -/
def Obligations.HostTurnChangesOnlyDevices : Prop :=
  ∀ (s : State) (m : HostMove) (rest : List Turn), s.dueTurns = .host m :: rest →
    ∃ t, step s = .next t ∧ t = (s.setSchedule rest).setDevices t.devices ∧
      (∀ k n, m = .keyChange k n → t.devices =
        { s.devices with keysState := k, keysPressed := s.devices.keysPressed ||| n }) ∧
      (∀ x y b, m = .mouseChange x y b → t.devices =
        { s.devices with mouseX := t.devices.mouseX, mouseY := t.devices.mouseY, mouseButtons := b } ∧
        t.devices.mouseX.toNat = x.toNat ∧ t.devices.mouseY.toNat = y.toNat) ∧
      (∀ k, m = .frameTick k → t.devices = { s.devices with frameCount := k }) ∧
      (m = .processSwap → t.devices =
        if s.devices.vsync = 1 then { s.devices with vsync := 0 } else s.devices)

/-- R108, R126: a LOAD of KEYS_PRESSED consumes what it reads: after the host presses `n`, a second LOAD returns `n` and no
press that was there before.  That the host ORs presses in is the spec's decision D17. -/
def Obligations.KeysPressedIsConsumedByALoad : Prop :=
  ∀ (a b : Reg) (k n : Byte) (s : State), s.addrPair = 0xBF01 → a ≠ .r6 → a ≠ .r7 → ∃ t u,
    exec (.load a) s = .next t ∧ t.reg a = s.devices.keysPressed ∧ t.devices.keysPressed = 0 ∧
    exec (.load b) (t.afterHostMove (.keyChange k n)) = .next u ∧ u.reg b = n ∧ u.devices.keysPressed = 0

/-- R114: the handshake on VSYNC: after a STORE of 1 a LOAD of VSYNC returns 1 until the host processes the swap, and 0
then.  The values are the spec's decision D16 (log entry 5); that the swap leaves storage, the framebuffer included, reading
as before is its decisions D22 and D29 (R117, R118; log entries 14, 22). -/
def Obligations.VsyncReadsOneUntilTheSwapIsProcessed : Prop :=
  ∀ (a b : Reg) (s : State), s.addrPair = 0xBF23 → s.reg a = 1 → ∃ t u v,
    exec (.store a) s = .next t ∧ exec (.load b) t = .next u ∧ u.reg b = 1 ∧
    exec (.load b) (t.afterHostMove .processSwap) = .next v ∧ v.reg b = 0 ∧ SameMemory t v

/-! ### Encoding -/

/-- R46 to R52, R59: for every instruction, decoding its canonical encoding gives it back. -/
def Obligations.DecodeInvertsEncode : Prop := ∀ i : Instr, decode (encode i) = .ok i

/-- R51: "an instruction word spells the instruction when W & mask == match": for every row of the table and every three
bytes, the mask test holds exactly when they decode to an instruction of that row. -/
def Obligations.DecodeAgreesWithMaskAndMatch : Prop :=
  ∀ row ∈ opcodeTable, ∀ b : InstrBytes,
    (b.spells row = true ↔ ∃ i, decode b = .ok i ∧ i.mnemonic = row.mnemonic)

/-- R52: the decode procedure, row by row: an unknown opcode is reported first, then arg1, then arg2; else the instruction
is the row's, with the operands its format takes from the bytes. -/
def Obligations.DecodeFollowsTheProcedure : Prop :=
  ∀ b : InstrBytes,
    ((∀ row ∈ opcodeTable, opcodeOfRow row ≠ b.opcode) → decode b = .error (.unknownOpcode b.opcode)) ∧
    (∀ row ∈ opcodeTable, opcodeOfRow row = b.opcode →
      (row.format ∈ [Format.ri, Format.r, Format.rr] → 7 < b.arg1.toNat →
        decode b = .error (.invalidRegister b.arg1)) ∧
      (row.format = .rr → b.arg1.toNat ≤ 7 → 7 < b.arg2.toNat → decode b = .error (.invalidRegister b.arg2)) ∧
      ((row.format ∈ [Format.ri, Format.r, Format.rr] → b.arg1.toNat ≤ 7) →
        (row.format = .rr → b.arg2.toNat ≤ 7) →
        ∃ i, decode b = .ok i ∧ i.mnemonic = row.mnemonic ∧ encode i = canonicalBytes row.format b))

/-- R53: the opcodes that are unknown are exactly the five ranges the rule lists.  That they are rejected is the spec's
decision D5. -/
def Obligations.UnknownOpcodesAreTheListedRanges : Prop :=
  ∀ b : InstrBytes, decode b = .error (.unknownOpcode b.opcode) ↔
    (b.opcode.toNat ≤ 0x0F ∨ (0x14 ≤ b.opcode.toNat ∧ b.opcode.toNat ≤ 0x1F) ∨
      (0x2E ≤ b.opcode.toNat ∧ b.opcode.toNat ≤ 0x2F) ∨ (0x35 ≤ b.opcode.toNat ∧ b.opcode.toNat ≤ 0x3F) ∨
      (0x42 ≤ b.opcode.toNat ∧ b.opcode.toNat ≤ 0xFE))

/-- R50: the bytes an instruction ignores do not matter: bytes that decode to an instruction decode to the same one with
every ignored byte replaced.  Beyond LOAD and STORE this is the spec's decision D4 (log entry 11). -/
def Obligations.IgnoredBytesDoNotMatter : Prop :=
  ∀ (x y : Byte) (b : InstrBytes) (row : OpcodeRow), row ∈ opcodeTable → opcodeOfRow row = b.opcode →
    (row.format = .r → decode { b with arg2 := x } = decode b) ∧
    (row.format = .n → decode { b with arg1 := x, arg2 := y } = decode b)

/-- Sample words of R45, R46 and R51, written out from the spec's encodings, one for each format, and words that are no
instruction.  Register bytes and operand order are the spec's decisions D1 and D3, the refusal of a register byte above 7
is D2, RET's ignored bytes are D4, the refusal of an unknown opcode is D5 (log entries 9, 11); the last clause rests on how
the model reads the numbers of spec/opcode_table.json (DEDUCED, log entry 16). -/
def Obligations.SampleWordsDecode : Prop :=
  decode ⟨0x10, 0x00, 0x2A⟩ = .ok (.loadi .r0 42) ∧ decode ⟨0x11, 0x03, 0x7E⟩ = .ok (.load .r3) ∧
  decode ⟨0x2B, 0x06, 0x00⟩ = .ok (.sbc .r6 .r0) ∧ decode ⟨0x30, 0x12, 0x34⟩ = .ok (.jmp 0x1234) ∧
  decode ⟨0x41, 0x99, 0x99⟩ = .ok .ret ∧ decode ⟨0x14, 0x09, 0x09⟩ = .error (.unknownOpcode 0x14) ∧
  decode ⟨0x13, 0x08, 0x09⟩ = .error (.invalidRegister 0x08) ∧
  decodeTableWord 24 0x2A0100 = some (.shr .r1)

/-! ### The whole machine -/

/-- R10: which instructions write a general register, and that each writes only its first operand. -/
def Obligations.OnlyTheFirstOperandIsWritten : Prop :=
  ∀ (i : Instr) (s t : State), exec i s = .next t → SameRegsBut (regWritten i) s t

/-- R15: the complete table of flag writers, row by row, that every other instruction leaves Z and C as they were, what the
four conditional jumps read, and that nothing but the listed readers reads a flag.  The row of CMP and the unbounded sum in
the row of SBC rest on the spec's decisions D21 and D20 (log entry 17). -/
def Obligations.FlagWritersAndReaders : Prop :=
  (∀ (a b : Reg) (s t : State),
    (exec (.add a b) s = .next t →
      (t.z = true ↔ t.reg a = 0) ∧ (t.c = true ↔ (s.reg a).toNat + (s.reg b).toNat > 255)) ∧
    (exec (.adc a b) s = .next t →
      (t.z = true ↔ t.reg a = 0) ∧
      (t.c = true ↔ (s.reg a).toNat + (s.reg b).toNat + (if s.c then 1 else 0) > 255)) ∧
    (exec (.sub a b) s = .next t →
      (t.z = true ↔ t.reg a = 0) ∧ (t.c = true ↔ (s.reg a).toNat < (s.reg b).toNat)) ∧
    (exec (.sbc a b) s = .next t →
      (t.z = true ↔ t.reg a = 0) ∧
      (t.c = true ↔ (s.reg a).toNat < (s.reg b).toNat + (if s.c then 1 else 0))) ∧
    (exec (.cmp a b) s = .next t →
      (t.z = true ↔ s.reg a = s.reg b) ∧ (t.c = true ↔ (s.reg a).toNat < (s.reg b).toNat)) ∧
    (exec (.inc a) s = .next t → (t.z = true ↔ t.reg a = 0) ∧ t.c = false) ∧
    (exec (.dec a) s = .next t → (t.z = true ↔ t.reg a = 0) ∧ t.c = false) ∧
    (exec (.and a b) s = .next t → (t.z = true ↔ t.reg a = 0) ∧ t.c = false) ∧
    (exec (.or a b) s = .next t → (t.z = true ↔ t.reg a = 0) ∧ t.c = false) ∧
    (exec (.xor a b) s = .next t → (t.z = true ↔ t.reg a = 0) ∧ t.c = false) ∧
    (exec (.shl a) s = .next t → (t.z = true ↔ t.reg a = 0) ∧ t.c = (s.reg a).getLsbD 7) ∧
    (exec (.shr a) s = .next t → (t.z = true ↔ t.reg a = 0) ∧ t.c = (s.reg a).getLsbD 0)) ∧
  (∀ (addr16 : Word) (s t : State),
    (exec (.jz addr16) s = .next t → t.pc = if s.z then addr16 else s.pc + 3#16) ∧
    (exec (.jnz addr16) s = .next t → t.pc = if s.z then s.pc + 3#16 else addr16) ∧
    (exec (.jc addr16) s = .next t → t.pc = if s.c then addr16 else s.pc + 3#16) ∧
    (exec (.jnc addr16) s = .next t → t.pc = if s.c then s.pc + 3#16 else addr16)) ∧
  (∀ (i : Instr) (s t : State), writesFlags i = false → exec i s = .next t → SameFlags s t) ∧
  (∀ (i : Instr) (s t : State) (v : Bool), readsZ i = false → exec i s = .next t →
    exec i { s with z := v } = .next (if writesFlags i then t else { t with z := v })) ∧
  (∀ (i : Instr) (s t : State) (v : Bool), readsC i = false → exec i s = .next t →
    exec i { s with c := v } = .next (if writesFlags i then t else { t with c := v }))

/-- R13, R24 (a): PUSH, POP, CALL and RET move SP by -1, +1, -2 and +2 without wrapping, and nothing else moves it
(decision D12). -/
def Obligations.OnlyStackInstructionsMoveSp : Prop :=
  ∀ (i : Instr) (s t : State), exec i s = .next t → (t.sp.toNat : Int) = (s.sp.toNat : Int) + spMove i

/-- R25, R36: the bytes an instruction stores to are STORE's ADDR, PUSH's SP, and CALL's SP and SP - 1; every other byte of
storage, and all of it for every other instruction, reads as before. -/
def Obligations.OnlyStorePushAndCallWriteMemory : Prop :=
  ∀ (i : Instr) (s t : State), exec i s = .next t → SameMemoryOutside (storedAddrs i s) s t

/-- R37: a LOAD from 0xBF01 clears KEYS_PRESSED, a STORE to 0xBF23 sets VSYNC to 1 (D16), and no other instruction changes a
device register. -/
def Obligations.DevicesChangeOnlyByTheTwoSideEffects : Prop :=
  ∀ (i : Instr) (s t : State), exec i s = .next t →
    t.devices = s.devices ∨
    ((∃ a, i = .load a) ∧ s.addrPair = 0xBF01 ∧ t.devices = { s.devices with keysPressed := 0 }) ∨
    ((∃ a, i = .store a ∧ s.reg a = 1) ∧ s.addrPair = 0xBF23 ∧ t.devices = { s.devices with vsync := 1 })

/-- R17, R21: HALTED is set by HALT alone and cleared by nothing; TICK and the model's own fields are no instruction's to
write. -/
def Obligations.OnlyHaltSetsHalted : Prop :=
  ∀ (i : Instr) (s t : State), exec i s = .next t →
    (t.halted = true ↔ s.halted = true ∨ i = .halt) ∧ SameFixed s t

/-- R94: "Instructions that can raise nothing at execution": from every state each of them completes; the other six stop
only with the faults the table gives them; and no instruction is refused. -/
def Obligations.FaultsAreTheListedOnes : Prop :=
  ∀ (i : Instr) (s : State),
    (mayFault i = false → ∃ t, exec i s = .next t) ∧
    (∀ r, exec i s ≠ .refused r) ∧
    (∀ f, exec i s = .fault f →
      ((∃ a, i = .load a) ∧ (f = .invalidMemoryAccess .load s.addrPair ∨ f = .undefinedMMIOAccess .load s.addrPair none)) ∨
      (∃ a, i = .store a ∧ (f = .invalidMemoryAccess .store s.addrPair ∨
        f = .undefinedMMIOAccess .store s.addrPair (some (s.reg a)))) ∨
      (((∃ a, i = .push a) ∨ ∃ d, i = .call d) ∧ f = .stackOverflow s.sp) ∨
      (((∃ a, i = .pop a) ∨ i = .ret) ∧ f = .stackUnderflow s.sp))

/-- R24 (a), (d), R20: every step, of the CPU or of the host, keeps the invariant: memory canonical and with nothing behind
the device registers, SP in 0x8000 to 0xBEFF, the device registers in their value sets (decisions D12, D16, D17). -/
def Obligations.StepKeepsTheInvariant : Prop :=
  ∀ s t : State, s.Inv → step s = .next t → t.Inv

/-- R24 (b), R38: over a run of any length from any state that meets the invariant, the signature and the code segment read
as they did, and the invariant holds at the end: a program cannot modify itself (decisions D7, D8, D12). -/
def Obligations.RunsNeverChangeTheLoadedImage : Prop :=
  ∀ (n : Nat) (s t : State), s.Inv → runs n s = .next t →
    t.Inv ∧ ∀ addr : Word, addr.toNat ≤ 0x1FFF → t.readStorage addr = s.readStorage addr

/-- R23, R120, R123: the state at the start of every launch: PC, SP, the registers and the flags as the source gives them;
HALTED, TICK and VSYNC as the spec decides them (D15, D16); the input registers as the host presents them (D17); memory
exactly what the launch defines, outside the device registers (D18, D30; where it gives an address twice the first byte
stands, log entry 24); and every launch meets the invariant.  `State.reset` is the launch with the default parameters
(D9, D13, D15; log entry 2) that defines no memory, presents zeros and has an idle host (log entries 3, 4). -/
def Obligations.ResetValues : Prop :=
  (∀ (config : Config) (mem0 : List Host.Cell) (inputs : Inputs) (schedule routine : List Turn) (launchId : Nat),
    let s := State.launch config mem0 inputs schedule routine launchId
    s.pc = 0x0010 ∧ s.sp = 0xBEFF ∧ (∀ r, s.reg r = 0) ∧ s.z = false ∧ s.c = false ∧ s.halted = false ∧
      s.tick = config.tickReset ∧ s.devices.vsync = 0 ∧
      s.devices.keysState = inputs.keysState ∧ s.devices.keysPressed = inputs.keysPressed ∧
      s.devices.mouseX.toNat = inputs.mouseX.toNat ∧ s.devices.mouseY.toNat = inputs.mouseY.toNat ∧
      s.devices.mouseButtons = inputs.mouseButtons ∧ s.devices.frameCount = inputs.frameCount ∧
      (∀ addr : Word, addr.toNat < 0xBF00 ∨ 0xC000 ≤ addr.toNat →
        Memory.lookup s.mem addr.toNat = Memory.lookup mem0 addr.toNat) ∧
      s.config = config ∧ s.schedule = schedule ∧ s.routine = routine ∧ s.launchId = launchId ∧ s.Inv) ∧
  State.reset.pc = 0x0010 ∧ State.reset.sp = 0xBEFF ∧ (∀ r, State.reset.reg r = 0) ∧ State.reset.z = false ∧
  State.reset.c = false ∧ State.reset.halted = false ∧ State.reset.tick = 0 ∧ State.reset.devices.vsync = 0 ∧
  State.reset.Inv ∧ State.reset = State.launch {} [] {} [] [] 0

/-- R117: the pixel at column x and row y is at 0xC000 + y * 128 + x, which is the address pair the rule gives for R6 and R7;
different pixels have different addresses, and every byte of the framebuffer is a pixel. -/
def Obligations.PixelsFillTheFramebuffer : Prop :=
  (∀ x y : BitVec 7, (pixelAddr x y).toNat = 0xC000 + y.toNat * 128 + x.toNat) ∧
  (∀ (x y : BitVec 7) (s : State), (s.reg .r6).toNat = 0xC0 + y.toNat / 2 →
    (s.reg .r7).toNat = y.toNat % 2 * 128 + x.toNat → s.addrPair = pixelAddr x y) ∧
  (∀ x y x' y' : BitVec 7, pixelAddr x y = pixelAddr x' y' → x = x' ∧ y = y') ∧
  (∀ addr : Word, 0xC000 ≤ addr.toNat → ∃ x y, addr = pixelAddr x y)

/-- R45, R57: in a launch whose memory is a program's image from 0x0010 on, the k-th instruction's three bytes, opcode first,
stand at 0x0010 + 3k (decision D25, log entry 18). -/
def Obligations.ProgramImageHoldsEveryInstruction : Prop :=
  ∀ (is : List Instr) (k : Nat) (i : Instr) (addr : Word) (config : Config) (inputs : Inputs)
    (schedule routine : List Turn) (launchId : Nat),
    programOrigin + 3 * is.length ≤ 0x2000 → is[k]? = some i → addr.toNat = programOrigin + 3 * k →
    let s := State.launch config (programImage programOrigin is) inputs schedule routine launchId
    Memory.wf s.mem = true ∧
    (⟨s.readStorage addr, s.readStorage (addr + 1#16), s.readStorage (addr + 2#16)⟩ : InstrBytes) = encode i

/-! ### The host for ever -/

/-- R118, R22: the turns of a state are its schedule's, then its routine's over and over for ever: a step takes the first of
them and leaves the rest; a host move that is next is what the step does; a turn of the routine comes again and again.
That a host is held in this form is the model's choice (log entry 3). -/
def Obligations.TurnsFollowScheduleThenRoutine : Prop :=
  ∀ s : State,
    (∀ t, step s = .next t → ∀ n, t.turnNumber n = s.turnNumber (n + 1)) ∧
    (∀ m, s.turnNumber 0 = .host m → step s = .next ((s.setSchedule s.dueTurns.tail).afterHostMove m)) ∧
    (s.turnNumber 0 = .cpu → ∃ s', CpuTurn s s') ∧
    (∀ turn ∈ s.routine, ∀ n, ∃ m, n ≤ m ∧ s.turnNumber m = turn)

/-- R114, R118: a pending swap stays pending, whatever the CPU does, until the host processes it: without HOST_PROCESSES_SWAP
(D27) a wait on VSYNC need not end.  The value 1 is the spec's decision D16 (log entry 5). -/
def Obligations.PendingSwapWaitsForTheHost : Prop :=
  ∀ (host : HostOracle) (k n : Nat) (s t : State), s.devices.vsync = 1 →
    (∀ m, k ≤ m → m < k + n → host m ≠ .host .processSwap) → runUnder host k n s = .next t → t.devices.vsync = 1

/-- R6, R114 under HOST_PROCESSES_SWAP (D27, OPEN: here a hypothesis, log entry 19): a pending swap is processed, so that
VSYNC is 0 after some number of turns, unless the CPU has stopped by then; for every host that meets the assumption, and
for every state whose routine processes swaps.  The values 1 and 0 are the spec's decision D16 (log entry 5), the stop of a
halted CPU's turn is the model's (log entry 10). -/
def Obligations.FairHostProcessesThePendingSwap : Prop :=
  (∀ (host : HostOracle) (s : State), s.devices.vsync = 1 → HostProcessesSwap host s → ∃ n,
    (∃ t, runUnder host 0 n s = .next t ∧ t.devices.vsync = 0) ∨ (∃ f, runUnder host 0 n s = .fault f) ∨
      runUnder host 0 n s = .refused .halted) ∧
  (∀ s : State, s.devices.vsync = 1 → .host .processSwap ∈ s.routine → ∃ n,
    (∃ t, runs n s = .next t ∧ t.devices.vsync = 0) ∨ (∃ f, runs n s = .fault f) ∨ runs n s = .refused .halted)
end

