-- ==== Sys2Proof/Laws/State.lean ====
section
/-! SUPPORT. One lemma per field per update of State, true by rfl, so that no later proof unfolds a record update; and
the reads of registers and of storage across each update. -/

namespace Sys2Proof.Machine

/-! ### Fields -/

@[simp] theorem setReg_regs (s : State) (r : Reg) (v : Byte) : (s.setReg r v).regs = s.regs.set r v := rfl
@[simp] theorem setReg_pc (s : State) (r : Reg) (v : Byte) : (s.setReg r v).pc = s.pc := rfl
@[simp] theorem setReg_sp (s : State) (r : Reg) (v : Byte) : (s.setReg r v).sp = s.sp := rfl
@[simp] theorem setReg_z (s : State) (r : Reg) (v : Byte) : (s.setReg r v).z = s.z := rfl
@[simp] theorem setReg_c (s : State) (r : Reg) (v : Byte) : (s.setReg r v).c = s.c := rfl
@[simp] theorem setReg_halted (s : State) (r : Reg) (v : Byte) : (s.setReg r v).halted = s.halted := rfl
@[simp] theorem setReg_tick (s : State) (r : Reg) (v : Byte) : (s.setReg r v).tick = s.tick := rfl
@[simp] theorem setReg_devices (s : State) (r : Reg) (v : Byte) : (s.setReg r v).devices = s.devices := rfl
@[simp] theorem setReg_mem (s : State) (r : Reg) (v : Byte) : (s.setReg r v).mem = s.mem := rfl
@[simp] theorem setReg_config (s : State) (r : Reg) (v : Byte) : (s.setReg r v).config = s.config := rfl
@[simp] theorem setReg_schedule (s : State) (r : Reg) (v : Byte) : (s.setReg r v).schedule = s.schedule := rfl
@[simp] theorem setReg_routine (s : State) (r : Reg) (v : Byte) : (s.setReg r v).routine = s.routine := rfl
@[simp] theorem setReg_launchId (s : State) (r : Reg) (v : Byte) : (s.setReg r v).launchId = s.launchId := rfl

@[simp] theorem writeStorage_regs (s : State) (addr : Word) (v : Byte) : (s.writeStorage addr v).regs = s.regs := rfl
@[simp] theorem writeStorage_pc (s : State) (addr : Word) (v : Byte) : (s.writeStorage addr v).pc = s.pc := rfl
@[simp] theorem writeStorage_sp (s : State) (addr : Word) (v : Byte) : (s.writeStorage addr v).sp = s.sp := rfl
@[simp] theorem writeStorage_z (s : State) (addr : Word) (v : Byte) : (s.writeStorage addr v).z = s.z := rfl
@[simp] theorem writeStorage_c (s : State) (addr : Word) (v : Byte) : (s.writeStorage addr v).c = s.c := rfl
@[simp] theorem writeStorage_halted (s : State) (addr : Word) (v : Byte) : (s.writeStorage addr v).halted = s.halted := rfl
@[simp] theorem writeStorage_tick (s : State) (addr : Word) (v : Byte) : (s.writeStorage addr v).tick = s.tick := rfl
@[simp] theorem writeStorage_devices (s : State) (addr : Word) (v : Byte) : (s.writeStorage addr v).devices = s.devices := rfl
@[simp] theorem writeStorage_mem (s : State) (addr : Word) (v : Byte) : (s.writeStorage addr v).mem = Memory.insert s.mem addr.toNat v := rfl
@[simp] theorem writeStorage_config (s : State) (addr : Word) (v : Byte) : (s.writeStorage addr v).config = s.config := rfl
@[simp] theorem writeStorage_schedule (s : State) (addr : Word) (v : Byte) : (s.writeStorage addr v).schedule = s.schedule := rfl
@[simp] theorem writeStorage_routine (s : State) (addr : Word) (v : Byte) : (s.writeStorage addr v).routine = s.routine := rfl
@[simp] theorem writeStorage_launchId (s : State) (addr : Word) (v : Byte) : (s.writeStorage addr v).launchId = s.launchId := rfl

@[simp] theorem setPc_regs (s : State) (v : Word) : (s.setPc v).regs = s.regs := rfl
@[simp] theorem setPc_pc (s : State) (v : Word) : (s.setPc v).pc = v := rfl
@[simp] theorem setPc_sp (s : State) (v : Word) : (s.setPc v).sp = s.sp := rfl
@[simp] theorem setPc_z (s : State) (v : Word) : (s.setPc v).z = s.z := rfl
@[simp] theorem setPc_c (s : State) (v : Word) : (s.setPc v).c = s.c := rfl
@[simp] theorem setPc_halted (s : State) (v : Word) : (s.setPc v).halted = s.halted := rfl
@[simp] theorem setPc_tick (s : State) (v : Word) : (s.setPc v).tick = s.tick := rfl
@[simp] theorem setPc_devices (s : State) (v : Word) : (s.setPc v).devices = s.devices := rfl
@[simp] theorem setPc_mem (s : State) (v : Word) : (s.setPc v).mem = s.mem := rfl
@[simp] theorem setPc_config (s : State) (v : Word) : (s.setPc v).config = s.config := rfl
@[simp] theorem setPc_schedule (s : State) (v : Word) : (s.setPc v).schedule = s.schedule := rfl
@[simp] theorem setPc_routine (s : State) (v : Word) : (s.setPc v).routine = s.routine := rfl
@[simp] theorem setPc_launchId (s : State) (v : Word) : (s.setPc v).launchId = s.launchId := rfl

@[simp] theorem setSp_regs (s : State) (v : Word) : (s.setSp v).regs = s.regs := rfl
@[simp] theorem setSp_pc (s : State) (v : Word) : (s.setSp v).pc = s.pc := rfl
@[simp] theorem setSp_sp (s : State) (v : Word) : (s.setSp v).sp = v := rfl
@[simp] theorem setSp_z (s : State) (v : Word) : (s.setSp v).z = s.z := rfl
@[simp] theorem setSp_c (s : State) (v : Word) : (s.setSp v).c = s.c := rfl
@[simp] theorem setSp_halted (s : State) (v : Word) : (s.setSp v).halted = s.halted := rfl
@[simp] theorem setSp_tick (s : State) (v : Word) : (s.setSp v).tick = s.tick := rfl
@[simp] theorem setSp_devices (s : State) (v : Word) : (s.setSp v).devices = s.devices := rfl
@[simp] theorem setSp_mem (s : State) (v : Word) : (s.setSp v).mem = s.mem := rfl
@[simp] theorem setSp_config (s : State) (v : Word) : (s.setSp v).config = s.config := rfl
@[simp] theorem setSp_schedule (s : State) (v : Word) : (s.setSp v).schedule = s.schedule := rfl
@[simp] theorem setSp_routine (s : State) (v : Word) : (s.setSp v).routine = s.routine := rfl
@[simp] theorem setSp_launchId (s : State) (v : Word) : (s.setSp v).launchId = s.launchId := rfl

@[simp] theorem setTick_regs (s : State) (v : Word) : (s.setTick v).regs = s.regs := rfl
@[simp] theorem setTick_pc (s : State) (v : Word) : (s.setTick v).pc = s.pc := rfl
@[simp] theorem setTick_sp (s : State) (v : Word) : (s.setTick v).sp = s.sp := rfl
@[simp] theorem setTick_z (s : State) (v : Word) : (s.setTick v).z = s.z := rfl
@[simp] theorem setTick_c (s : State) (v : Word) : (s.setTick v).c = s.c := rfl
@[simp] theorem setTick_halted (s : State) (v : Word) : (s.setTick v).halted = s.halted := rfl
@[simp] theorem setTick_tick (s : State) (v : Word) : (s.setTick v).tick = v := rfl
@[simp] theorem setTick_devices (s : State) (v : Word) : (s.setTick v).devices = s.devices := rfl
@[simp] theorem setTick_mem (s : State) (v : Word) : (s.setTick v).mem = s.mem := rfl
@[simp] theorem setTick_config (s : State) (v : Word) : (s.setTick v).config = s.config := rfl
@[simp] theorem setTick_schedule (s : State) (v : Word) : (s.setTick v).schedule = s.schedule := rfl
@[simp] theorem setTick_routine (s : State) (v : Word) : (s.setTick v).routine = s.routine := rfl
@[simp] theorem setTick_launchId (s : State) (v : Word) : (s.setTick v).launchId = s.launchId := rfl

@[simp] theorem setDevices_regs (s : State) (d : Devices) : (s.setDevices d).regs = s.regs := rfl
@[simp] theorem setDevices_pc (s : State) (d : Devices) : (s.setDevices d).pc = s.pc := rfl
@[simp] theorem setDevices_sp (s : State) (d : Devices) : (s.setDevices d).sp = s.sp := rfl
@[simp] theorem setDevices_z (s : State) (d : Devices) : (s.setDevices d).z = s.z := rfl
@[simp] theorem setDevices_c (s : State) (d : Devices) : (s.setDevices d).c = s.c := rfl
@[simp] theorem setDevices_halted (s : State) (d : Devices) : (s.setDevices d).halted = s.halted := rfl
@[simp] theorem setDevices_tick (s : State) (d : Devices) : (s.setDevices d).tick = s.tick := rfl
@[simp] theorem setDevices_devices (s : State) (d : Devices) : (s.setDevices d).devices = d := rfl
@[simp] theorem setDevices_mem (s : State) (d : Devices) : (s.setDevices d).mem = s.mem := rfl
@[simp] theorem setDevices_config (s : State) (d : Devices) : (s.setDevices d).config = s.config := rfl
@[simp] theorem setDevices_schedule (s : State) (d : Devices) : (s.setDevices d).schedule = s.schedule := rfl
@[simp] theorem setDevices_routine (s : State) (d : Devices) : (s.setDevices d).routine = s.routine := rfl
@[simp] theorem setDevices_launchId (s : State) (d : Devices) : (s.setDevices d).launchId = s.launchId := rfl

@[simp] theorem setSchedule_regs (s : State) (l : List Turn) : (s.setSchedule l).regs = s.regs := rfl
@[simp] theorem setSchedule_pc (s : State) (l : List Turn) : (s.setSchedule l).pc = s.pc := rfl
@[simp] theorem setSchedule_sp (s : State) (l : List Turn) : (s.setSchedule l).sp = s.sp := rfl
@[simp] theorem setSchedule_z (s : State) (l : List Turn) : (s.setSchedule l).z = s.z := rfl
@[simp] theorem setSchedule_c (s : State) (l : List Turn) : (s.setSchedule l).c = s.c := rfl
@[simp] theorem setSchedule_halted (s : State) (l : List Turn) : (s.setSchedule l).halted = s.halted := rfl
@[simp] theorem setSchedule_tick (s : State) (l : List Turn) : (s.setSchedule l).tick = s.tick := rfl
@[simp] theorem setSchedule_devices (s : State) (l : List Turn) : (s.setSchedule l).devices = s.devices := rfl
@[simp] theorem setSchedule_mem (s : State) (l : List Turn) : (s.setSchedule l).mem = s.mem := rfl
@[simp] theorem setSchedule_config (s : State) (l : List Turn) : (s.setSchedule l).config = s.config := rfl
@[simp] theorem setSchedule_schedule (s : State) (l : List Turn) : (s.setSchedule l).schedule = l := rfl
@[simp] theorem setSchedule_routine (s : State) (l : List Turn) : (s.setSchedule l).routine = s.routine := rfl
@[simp] theorem setSchedule_launchId (s : State) (l : List Turn) : (s.setSchedule l).launchId = s.launchId := rfl

@[simp] theorem advance_regs (s : State) : (s.advance).regs = s.regs := rfl
@[simp] theorem advance_pc (s : State) : (s.advance).pc = s.pc + 3#16 := rfl
@[simp] theorem advance_sp (s : State) : (s.advance).sp = s.sp := rfl
@[simp] theorem advance_z (s : State) : (s.advance).z = s.z := rfl
@[simp] theorem advance_c (s : State) : (s.advance).c = s.c := rfl
@[simp] theorem advance_halted (s : State) : (s.advance).halted = s.halted := rfl
@[simp] theorem advance_tick (s : State) : (s.advance).tick = s.tick := rfl
@[simp] theorem advance_devices (s : State) : (s.advance).devices = s.devices := rfl
@[simp] theorem advance_mem (s : State) : (s.advance).mem = s.mem := rfl
@[simp] theorem advance_config (s : State) : (s.advance).config = s.config := rfl
@[simp] theorem advance_schedule (s : State) : (s.advance).schedule = s.schedule := rfl
@[simp] theorem advance_routine (s : State) : (s.advance).routine = s.routine := rfl
@[simp] theorem advance_launchId (s : State) : (s.advance).launchId = s.launchId := rfl

@[simp] theorem setFlags_regs (s : State) (o : AluOut) : (s.setFlags o).regs = s.regs := rfl
@[simp] theorem setFlags_pc (s : State) (o : AluOut) : (s.setFlags o).pc = s.pc := rfl
@[simp] theorem setFlags_sp (s : State) (o : AluOut) : (s.setFlags o).sp = s.sp := rfl
@[simp] theorem setFlags_z (s : State) (o : AluOut) : (s.setFlags o).z = zeroFlag o.result := rfl
@[simp] theorem setFlags_c (s : State) (o : AluOut) : (s.setFlags o).c = o.carry := rfl
@[simp] theorem setFlags_halted (s : State) (o : AluOut) : (s.setFlags o).halted = s.halted := rfl
@[simp] theorem setFlags_tick (s : State) (o : AluOut) : (s.setFlags o).tick = s.tick := rfl
@[simp] theorem setFlags_devices (s : State) (o : AluOut) : (s.setFlags o).devices = s.devices := rfl
@[simp] theorem setFlags_mem (s : State) (o : AluOut) : (s.setFlags o).mem = s.mem := rfl
@[simp] theorem setFlags_config (s : State) (o : AluOut) : (s.setFlags o).config = s.config := rfl
@[simp] theorem setFlags_schedule (s : State) (o : AluOut) : (s.setFlags o).schedule = s.schedule := rfl
@[simp] theorem setFlags_routine (s : State) (o : AluOut) : (s.setFlags o).routine = s.routine := rfl
@[simp] theorem setFlags_launchId (s : State) (o : AluOut) : (s.setFlags o).launchId = s.launchId := rfl

@[simp] theorem afterHostMove_regs (s : State) (m : HostMove) : (s.afterHostMove m).regs = s.regs := rfl
@[simp] theorem afterHostMove_pc (s : State) (m : HostMove) : (s.afterHostMove m).pc = s.pc := rfl
@[simp] theorem afterHostMove_sp (s : State) (m : HostMove) : (s.afterHostMove m).sp = s.sp := rfl
@[simp] theorem afterHostMove_z (s : State) (m : HostMove) : (s.afterHostMove m).z = s.z := rfl
@[simp] theorem afterHostMove_c (s : State) (m : HostMove) : (s.afterHostMove m).c = s.c := rfl
@[simp] theorem afterHostMove_halted (s : State) (m : HostMove) : (s.afterHostMove m).halted = s.halted := rfl
@[simp] theorem afterHostMove_tick (s : State) (m : HostMove) : (s.afterHostMove m).tick = s.tick := rfl
@[simp] theorem afterHostMove_devices (s : State) (m : HostMove) : (s.afterHostMove m).devices = s.devices.afterMove m := rfl
@[simp] theorem afterHostMove_mem (s : State) (m : HostMove) : (s.afterHostMove m).mem = s.mem := rfl
@[simp] theorem afterHostMove_config (s : State) (m : HostMove) : (s.afterHostMove m).config = s.config := rfl
@[simp] theorem afterHostMove_schedule (s : State) (m : HostMove) : (s.afterHostMove m).schedule = s.schedule := rfl
@[simp] theorem afterHostMove_routine (s : State) (m : HostMove) : (s.afterHostMove m).routine = s.routine := rfl
@[simp] theorem afterHostMove_launchId (s : State) (m : HostMove) : (s.afterHostMove m).launchId = s.launchId := rfl

/-! ### Registers -/

@[simp] theorem regs_get_set_same (g : Regs) (r : Reg) (v : Byte) : (g.set r v).get r = v := by
  cases r <;> rfl

theorem regs_get_set_other (g : Regs) (r q : Reg) (v : Byte) (h : q ≠ r) : (g.set r v).get q = g.get q := by
  cases r <;> cases q <;> first | rfl | exact absurd rfl h

@[simp] theorem reg_setReg_same (s : State) (r : Reg) (v : Byte) : (s.setReg r v).reg r = v :=
  regs_get_set_same s.regs r v

theorem reg_setReg_other (s : State) (r q : Reg) (v : Byte) (h : q ≠ r) : (s.setReg r v).reg q = s.reg q :=
  regs_get_set_other s.regs r q v h

@[simp] theorem reg_writeStorage (s : State) (addr : Word) (v : Byte) (q : Reg) : (s.writeStorage addr v).reg q = s.reg q := rfl
@[simp] theorem reg_setPc (s : State) (v : Word) (q : Reg) : (s.setPc v).reg q = s.reg q := rfl
@[simp] theorem reg_setSp (s : State) (v : Word) (q : Reg) : (s.setSp v).reg q = s.reg q := rfl
@[simp] theorem reg_setTick (s : State) (v : Word) (q : Reg) : (s.setTick v).reg q = s.reg q := rfl
@[simp] theorem reg_setDevices (s : State) (d : Devices) (q : Reg) : (s.setDevices d).reg q = s.reg q := rfl
@[simp] theorem reg_setSchedule (s : State) (l : List Turn) (q : Reg) : (s.setSchedule l).reg q = s.reg q := rfl
@[simp] theorem reg_advance (s : State) (q : Reg) : (s.advance).reg q = s.reg q := rfl
@[simp] theorem reg_setFlags (s : State) (o : AluOut) (q : Reg) : (s.setFlags o).reg q = s.reg q := rfl
@[simp] theorem reg_afterHostMove (s : State) (m : HostMove) (q : Reg) : (s.afterHostMove m).reg q = s.reg q := rfl

/-! ### The PC a jump leaves -/

@[simp] theorem jumpPc_taken (s : State) (target : Word) : s.jumpPc true target = target := rfl
@[simp] theorem jumpPc_not_taken (s : State) (target : Word) : s.jumpPc false target = s.pc + 3#16 := rfl

/-- A jump reaches a target that is not the next instruction exactly when it is taken. -/
theorem jumpPc_eq_target_iff (s : State) (taken : Bool) (target : Word) (h : s.pc + 3#16 ≠ target) :
    s.jumpPc taken target = target ↔ taken = true := by
  cases taken <;> simp [h]

/-! ### Storage -/

@[simp] theorem lookup_insert_same (m : Memory) (a : Nat) (v : Byte) :
    Memory.lookup (Memory.insert m a v) a = some v := by
  induction m with
  | nil => simp [Memory.insert, Memory.lookup]
  | cons e rest ih =>
    obtain ⟨k, w⟩ := e
    unfold Memory.insert
    split
    · simp [Memory.lookup]
    · split
      · simp [Memory.lookup]
      · have hne : k ≠ a := fun h => by omega
        simp [Memory.lookup, hne, ih]

theorem lookup_insert_other (m : Memory) (a b : Nat) (v : Byte) (h : b ≠ a) :
    Memory.lookup (Memory.insert m a v) b = Memory.lookup m b := by
  have h' : a ≠ b := fun e => h e.symm
  induction m with
  | nil => simp [Memory.insert, Memory.lookup, h']
  | cons e rest ih =>
    obtain ⟨k, w⟩ := e
    unfold Memory.insert
    split
    · simp [Memory.lookup, h']
    · split
      · rename_i hk
        subst hk
        simp [Memory.lookup, h']
      · simp [Memory.lookup, ih]

theorem risingAbove_insert (m : Memory) (low a : Nat) (v : Byte) (hm : Memory.risingAbove low m = true)
    (hl : low ≤ a) (ha : a < 65536) : Memory.risingAbove low (Memory.insert m a v) = true := by
  induction m generalizing low with
  | nil => simp [Memory.insert, Memory.risingAbove, hl, ha]
  | cons e rest ih =>
    obtain ⟨k, w⟩ := e
    simp only [Memory.risingAbove, Bool.and_eq_true, decide_eq_true_eq] at hm
    obtain ⟨⟨h1, h2⟩, h3⟩ := hm
    unfold Memory.insert
    split
    · simp only [Memory.risingAbove, Bool.and_eq_true, decide_eq_true_eq]
      exact ⟨⟨hl, ha⟩, ⟨by omega, h2⟩, h3⟩
    · split
      · subst_vars
        simp only [Memory.risingAbove, Bool.and_eq_true, decide_eq_true_eq]
        exact ⟨⟨h1, h2⟩, h3⟩
      · simp only [Memory.risingAbove, Bool.and_eq_true, decide_eq_true_eq]
        exact ⟨⟨h1, h2⟩, ih (k + 1) h3 (by omega)⟩

/-- Writing a byte at an address of the 64 KB space keeps the canonical form. -/
theorem wf_insert (m : Memory) (a : Nat) (v : Byte) (hm : Memory.wf m = true) (ha : a < 65536) :
    Memory.wf (Memory.insert m a v) = true :=
  risingAbove_insert m 0 a v hm (Nat.zero_le a) ha

/-- `State.writeStorage` keeps the canonical form. -/
theorem wf_writeStorage (s : State) (addr : Word) (v : Byte) (hm : Memory.wf s.mem = true) :
    Memory.wf (s.writeStorage addr v).mem = true :=
  wf_insert s.mem addr.toNat v hm addr.isLt

theorem wf_reset : Memory.wf State.reset.mem = true := rfl

@[simp] theorem readStorage_writeStorage_same (s : State) (addr : Word) (v : Byte) :
    (s.writeStorage addr v).readStorage addr = v := by
  simp [State.readStorage]

theorem readStorage_writeStorage_other (s : State) (addr b : Word) (v : Byte) (h : b ≠ addr) :
    (s.writeStorage addr v).readStorage b = s.readStorage b := by
  have h' : b.toNat ≠ addr.toNat := fun e => h (BitVec.eq_of_toNat_eq e)
  simp [State.readStorage, lookup_insert_other _ _ _ _ h']

/-- Storage is read from `mem` and `launchId` alone. -/
theorem readStorage_congr (s t : State) (hm : t.mem = s.mem) (hl : t.launchId = s.launchId) (addr : Word) :
    t.readStorage addr = s.readStorage addr := by
  simp [State.readStorage, hm, hl]

@[simp] theorem readStorage_setReg (s : State) (r : Reg) (v : Byte) (a : Word) :
    (s.setReg r v).readStorage a = s.readStorage a := rfl
@[simp] theorem readStorage_setPc (s : State) (v : Word) (a : Word) :
    (s.setPc v).readStorage a = s.readStorage a := rfl
@[simp] theorem readStorage_setSp (s : State) (v : Word) (a : Word) :
    (s.setSp v).readStorage a = s.readStorage a := rfl
@[simp] theorem readStorage_setTick (s : State) (v : Word) (a : Word) :
    (s.setTick v).readStorage a = s.readStorage a := rfl
@[simp] theorem readStorage_setDevices (s : State) (d : Devices) (a : Word) :
    (s.setDevices d).readStorage a = s.readStorage a := rfl
@[simp] theorem readStorage_setSchedule (s : State) (l : List Turn) (a : Word) :
    (s.setSchedule l).readStorage a = s.readStorage a := rfl
@[simp] theorem readStorage_advance (s : State) (a : Word) :
    (s.advance).readStorage a = s.readStorage a := rfl
@[simp] theorem readStorage_setFlags (s : State) (o : AluOut) (a : Word) :
    (s.setFlags o).readStorage a = s.readStorage a := rfl
@[simp] theorem readStorage_afterHostMove (s : State) (m : HostMove) (a : Word) :
    (s.afterHostMove m).readStorage a = s.readStorage a := rfl

end Sys2Proof.Machine
end

