-- ==== Sys2Proof/Laws/Words.lean ====
section
/-! SUPPORT. Two bytes as one word: its number, and its halves. -/

namespace Sys2Proof

theorem append_toNat (hi lo : Byte) : (hi ++ lo : Word).toNat = hi.toNat * 256 + lo.toNat := by
  have h := lo.isLt
  rw [BitVec.toNat_append, Nat.shiftLeft_eq, Nat.mul_comm, ← Nat.two_pow_add_eq_or_of_lt h]

theorem highHalf_toNat (w : Word) : (w.extractLsb' 8 8).toNat = w.toNat / 256 := by
  have h := w.isLt
  rw [BitVec.extractLsb'_toNat, Nat.shiftRight_eq_div_pow]
  omega

theorem lowHalf_toNat (w : Word) : (w.extractLsb' 0 8).toNat = w.toNat % 256 := by
  rw [BitVec.extractLsb'_toNat, Nat.shiftRight_zero]

theorem highHalf_append (hi lo : Byte) : (hi ++ lo : Word).extractLsb' 8 8 = hi := by
  apply BitVec.eq_of_toNat_eq
  rw [highHalf_toNat, append_toNat]
  have h := lo.isLt
  omega

theorem lowHalf_append (hi lo : Byte) : (hi ++ lo : Word).extractLsb' 0 8 = lo := by
  apply BitVec.eq_of_toNat_eq
  rw [lowHalf_toNat, append_toNat]
  have h := lo.isLt
  omega

theorem append_halves (w : Word) : w.extractLsb' 8 8 ++ w.extractLsb' 0 8 = w :=
  BitVec.extractLsb'_append_extractLsb'

end Sys2Proof
end

