-- ==== Sys2Proof/Laws/Ops.lean ====
section
/-! SUPPORT. For each shared operation, one lemma that says once everything it can do; the proofs cite these instead of
unfolding the operations. -/

namespace Sys2Proof.Machine

/-! ### Regions -/

/-- The seven ranges of R26, as bounds. -/
theorem regionOf_cases (addr : Word) :
    (regionOf addr = .signature ∧ addr.toNat < 0x0010) ∨
    (regionOf addr = .code ∧ 0x0010 ≤ addr.toNat ∧ addr.toNat < 0x2000) ∨
    (regionOf addr = .data ∧ 0x2000 ≤ addr.toNat ∧ addr.toNat < 0x4000) ∨
    (regionOf addr = .extended ∧ 0x4000 ≤ addr.toNat ∧ addr.toNat < 0x8000) ∨
    (regionOf addr = .stack ∧ 0x8000 ≤ addr.toNat ∧ addr.toNat < 0xBF00) ∨
    (regionOf addr = .mmio ∧ 0xBF00 ≤ addr.toNat ∧ addr.toNat < 0xC000) ∨
    (regionOf addr = .framebuffer ∧ 0xC000 ≤ addr.toNat) := by
  unfold regionOf
  repeat' split
  all_goals simp
  all_goals omega

theorem regionOf_mmio_iff (addr : Word) : regionOf addr = .mmio ↔ 0xBF00 ≤ addr.toNat ∧ addr.toNat ≤ 0xBFFF := by
  rcases regionOf_cases addr with h | h | h | h | h | h | h <;> simp [h.1] <;> omega

theorem regionOf_code_iff (addr : Word) : regionOf addr = .code ↔ InCode addr := by
  unfold InCode
  rcases regionOf_cases addr with h | h | h | h | h | h | h <;> simp [h.1] <;> omega

/-! ### Device registers -/

theorem deviceRegAt_vsync_iff (addr : Word) : deviceRegAt addr = some .vsync ↔ addr = 0xBF23#16 := by
  constructor
  · intro h
    unfold deviceRegAt at h
    split at h <;> simp_all
  · rintro rfl
    rfl

theorem deviceRegAt_isSome_iff (addr : Word) : (deviceRegAt addr).isSome = true ↔ addr ∈ deviceAddrs := by
  constructor
  · intro h
    unfold deviceRegAt at h
    split at h <;> simp_all [deviceAddrs]
  · intro h
    simp only [deviceAddrs, List.mem_cons, List.not_mem_nil, or_false] at h
    rcases h with rfl | rfl | rfl | rfl | rfl | rfl | rfl | rfl | rfl <;> rfl

theorem deviceRegAt_eq_none_iff (addr : Word) : deviceRegAt addr = none ↔ addr ∉ deviceAddrs := by
  rw [← deviceRegAt_isSome_iff]
  cases deviceRegAt addr <;> simp

/-- A device register lies in the MMIO range. -/
theorem mmio_of_mem_deviceAddrs {addr : Word} (h : addr ∈ deviceAddrs) : regionOf addr = .mmio := by
  simp only [deviceAddrs, List.mem_cons, List.not_mem_nil, or_false] at h
  rcases h with rfl | rfl | rfl | rfl | rfl | rfl | rfl | rfl | rfl <;> rfl

/-- A device read changes KEYS_PRESSED at most (R37). -/
theorem afterDeviceRead_eq (s : State) (d : DeviceReg) :
    s.afterDeviceRead d =
      s.setDevices { s.devices with
          keysPressed := if d = .keysPressed then 0#8 else s.devices.keysPressed } := by
  cases d <;> rfl

/-! ### MemRead and MemWrite -/

theorem memFetch_ok_iff (s : State) (addr : Word) (v : Byte) :
    memFetch s addr = .ok v ↔ InCode addr ∧ v = s.readStorage addr := by
  rw [← regionOf_code_iff]
  unfold memFetch
  cases regionOf addr <;> simp [eq_comm]

theorem memFetch_error_iff (s : State) (addr : Word) (f : Fault) :
    memFetch s addr = .error f ↔ ¬ InCode addr ∧ f = .invalidMemoryAccess .fetch addr := by
  rw [← regionOf_code_iff]
  unfold memFetch
  cases regionOf addr <;> simp [eq_comm]

/-- Everything a LOAD's read can answer (R28, R29, R106). -/
theorem memLoad_eq (s : State) (addr : Word) :
    (LoadableStorage s addr ∧ memLoad s addr = .ok (s.readStorage addr, s)) ∨
    (∃ d, deviceRegAt addr = some d ∧ regionOf addr = .mmio ∧
      memLoad s addr = .ok (s.deviceValue d, s.afterDeviceRead d)) ∨
    (regionOf addr = .mmio ∧ addr ∉ deviceAddrs ∧
      memLoad s addr = .error (.undefinedMMIOAccess .load addr none)) ∨
    (regionOf addr = .extended ∧ s.config.extRegionIsRam = false ∧
      memLoad s addr = .error (.invalidMemoryAccess .load addr)) := by
  unfold LoadableStorage memLoad
  rcases regionOf_cases addr with h | h | h | h | h | h | h <;> rw [h.1]
  case inr.inr.inr.inl =>
    cases hr : s.config.extRegionIsRam
    · simp
    · simp
      omega
  case inr.inr.inr.inr.inr.inl =>
    unfold mmioRead
    cases hd : deviceRegAt addr with
    | none => simp [(deviceRegAt_eq_none_iff addr).1 hd]
    | some d => simp
  all_goals exact Or.inl ⟨by omega, rfl⟩

/-- Everything a STORE's write can answer (R28, R30, R106). -/
theorem memStore_eq (s : State) (addr : Word) (v : Byte) :
    (StorableStorage s addr ∧ regionOf addr ≠ .mmio ∧ memStore s addr v = .ok (s.writeStorage addr v)) ∨
    (addr = 0xBF23#16 ∧ v = 1#8 ∧ memStore s addr v = .ok (s.setDevices { s.devices with vsync := 1#8 })) ∨
    (regionOf addr = .mmio ∧ ¬ (addr = 0xBF23#16 ∧ v = 1#8) ∧
      memStore s addr v = .error (.undefinedMMIOAccess .store addr (some v))) ∨
    (addr.toNat ≤ 0x1FFF ∧ memStore s addr v = .error (.invalidMemoryAccess .store addr)) ∨
    (regionOf addr = .extended ∧ s.config.extRegionIsRam = false ∧
      memStore s addr v = .error (.invalidMemoryAccess .store addr)) := by
  unfold StorableStorage memStore
  rcases regionOf_cases addr with h | h | h | h | h | h | h <;> rw [h.1]
  case inr.inr.inr.inl =>
    cases hr : s.config.extRegionIsRam
    · simp
    · simp
      omega
  case inr.inr.inr.inr.inr.inl =>
    by_cases hv : addr = 0xBF23#16 ∧ v = 1#8
    · simp [mmioWrite, deviceRegAt_vsync_iff, hv]
    · simp [mmioWrite, deviceRegAt_vsync_iff, hv]
  case inl => exact Or.inr (Or.inr (Or.inr (Or.inl ⟨by omega, rfl⟩)))
  case inr.inl => exact Or.inr (Or.inr (Or.inr (Or.inl ⟨by omega, rfl⟩)))
  all_goals exact Or.inl ⟨by omega, by simp, rfl⟩

/-! ### The stack -/

theorem pushByte_ok_iff (s t : State) (v : Byte) :
    pushByte s v = .ok t ↔ 0x8001 ≤ s.sp.toNat ∧ t = (s.writeStorage s.sp v).setSp (s.sp - 1#16) := by
  unfold pushByte
  split <;> simp [eq_comm] <;> omega

theorem popByte_ok_iff (s t : State) (v : Byte) :
    popByte s = .ok (v, t) ↔
      s.sp.toNat < 0xBEFF ∧ v = s.readStorage (s.sp + 1#16) ∧ t = s.setSp (s.sp + 1#16) := by
  unfold popByte
  split <;> simp [eq_comm] <;> omega

theorem push16_ok_iff (s t : State) (v : Word) :
    push16 s v = .ok t ↔ 0x8002 ≤ s.sp.toNat ∧
      t = ((s.writeStorage s.sp (firstPushed s.config.retAddrLayout v)).writeStorage (s.sp - 1#16)
          (secondPushed s.config.retAddrLayout v)).setSp (s.sp - 2#16) := by
  unfold push16
  split <;> simp [eq_comm] <;> omega

theorem pop16_ok_iff (s t : State) (v : Word) :
    pop16 s = .ok (v, t) ↔ s.sp.toNat < 0xBEFE ∧
      v = joinPopped s.config.retAddrLayout (s.readStorage (s.sp + 1#16)) (s.readStorage (s.sp + 2#16)) ∧
      t = s.setSp (s.sp + 2#16) := by
  unfold pop16
  split <;> simp [eq_comm] <;> omega

/-- Popping what was pushed gives it back, under either layout (R87). -/
theorem joinPopped_pushed (layout : RetAddrLayout) (v : Word) :
    joinPopped layout (secondPushed layout v) (firstPushed layout v) = v := by
  cases layout <;> exact append_halves v

/-! ### The ends of an instruction -/

theorem advanceOrFault_next_iff (r : Except Fault State) (t : State) :
    advanceOrFault r = .next t ↔ ∃ u, r = .ok u ∧ t = u.advance := by
  cases r <;> simp [advanceOrFault, raiseFault, eq_comm]

theorem countTick_next_iff (r : Result) (t : State) :
    countTick r = .next t ↔ ∃ u, r = .next u ∧ t = u.setTick (u.tick + 1#16) := by
  cases r <;> simp [countTick, eq_comm]

theorem execCall_next_iff (addr16 : Word) (s t : State) :
    execCall addr16 s = .next t ↔ ∃ u, push16 s s.pcNext = .ok u ∧ t = u.setPc addr16 := by
  unfold execCall
  cases push16 s s.pcNext <;> simp [raiseFault, eq_comm]

theorem execRet_next_iff (s t : State) :
    execRet s = .next t ↔ ∃ v u, pop16 s = .ok (v, u) ∧ t = u.setPc v := by
  unfold execRet
  cases pop16 s with
  | error f => simp [raiseFault]
  | ok vu =>
    obtain ⟨v, u⟩ := vu
    simp only [Host.Outcome.next.injEq, Except.ok.injEq, Prod.mk.injEq]
    exact ⟨fun h => ⟨v, u, ⟨rfl, rfl⟩, h.symm⟩, fun ⟨_, _, ⟨h1, h2⟩, h3⟩ => by rw [h3, h1, h2]⟩

/-! ### The cycle -/

/-- A fetch that answers read three bytes of the code segment (R21, R28). -/
theorem fetch_ok_iff (s : State) (b : InstrBytes) :
    fetch s = .ok b ↔ InCode s.pc ∧ InCode (s.pc + 1#16) ∧ InCode (s.pc + 2#16) ∧
      b = ⟨s.readStorage s.pc, s.readStorage (s.pc + 1#16), s.readStorage (s.pc + 2#16)⟩ := by
  unfold fetch
  cases h0 : memFetch s s.pc with
  | error f => simp [((memFetch_error_iff s _ f).1 h0).1]
  | ok v0 =>
    obtain ⟨c0, rfl⟩ := (memFetch_ok_iff s _ v0).1 h0
    cases h1 : memFetch s (s.pc + 1#16) with
    | error f => simp [((memFetch_error_iff s _ f).1 h1).1]
    | ok v1 =>
      obtain ⟨c1, rfl⟩ := (memFetch_ok_iff s _ v1).1 h1
      cases h2 : memFetch s (s.pc + 2#16) with
      | error f => simp [((memFetch_error_iff s _ f).1 h2).1]
      | ok v2 =>
        obtain ⟨c2, rfl⟩ := (memFetch_ok_iff s _ v2).1 h2
        simp [c0, c1, c2, eq_comm]

/-- A step of the CPU that answers a next state executed one decoded instruction and counted it (R21). -/
theorem cpuStep_next_iff (s t : State) :
    cpuStep s = .next t ↔ s.halted = false ∧ ∃ b i u, fetch s = .ok b ∧ decode b = .ok i ∧ exec i s = .next u ∧
      t = u.setTick (u.tick + 1#16) := by
  unfold cpuStep
  cases hh : s.halted
  · cases hf : fetch s with
    | error f => simp [raiseFault]
    | ok b =>
      cases hd : decode b with
      | error e => simp [raiseFault, hd]
      | ok i => simp [countTick_next_iff, hd]
  · simp

/-- A turn is a move of the host or a step of the CPU (R22). -/
theorem step_next_iff (s t : State) :
    step s = .next t ↔ (∃ m rest, s.dueTurns = .host m :: rest ∧ t = (s.setSchedule rest).afterHostMove m) ∨
      ∃ s', CpuTurn s s' ∧ cpuStep s' = .next t := by
  unfold step takeTurn
  cases hs : s.dueTurns with
  | nil =>
    constructor
    · exact fun h => Or.inr ⟨s, Or.inl ⟨hs, rfl⟩, h⟩
    · rintro (⟨m, rest, h, _⟩ | ⟨s', ⟨_, rfl⟩ | ⟨rest, h, _⟩, h'⟩)
      · cases h
      · exact h'
      · rw [hs] at h
        cases h
  | cons turn rest =>
    cases turn with
    | cpu =>
      constructor
      · exact fun h => Or.inr ⟨_, Or.inr ⟨rest, hs, rfl⟩, h⟩
      · rintro (⟨m, rest', h, _⟩ | ⟨s', ⟨h, _⟩ | ⟨rest', h, rfl⟩, h'⟩)
        · cases h
        · rw [hs] at h
          cases h
        · rw [hs] at h
          cases h
          exact h'
    | host m =>
      constructor
      · intro h
        cases h
        exact Or.inl ⟨m, rest, rfl, rfl⟩
      · rintro (⟨m', rest', h, rfl⟩ | ⟨s', ⟨h, _⟩ | ⟨rest', h, _⟩, _⟩)
        · cases h
          rfl
        · rw [hs] at h
          cases h
        · rw [hs] at h
          cases h

/-- A run of one turn more that answers is a step that answers, and then the run from there. -/
theorem runs_succ_next_iff (n : Nat) (s t : State) :
    runs (n + 1) s = .next t ↔ ∃ u, step s = .next u ∧ runs n u = .next t := by
  have hc : Sys2Proof.core.step s = step s := rfl
  unfold runs
  simp only [Host.Core.run]
  generalize Sys2Proof.core.step s = r at hc
  rw [← hc]
  cases r with
  | next v => exact ⟨fun h => ⟨v, rfl, h⟩, fun ⟨_, h, h'⟩ => by cases h; exact h'⟩
  | fault f => exact ⟨fun h => (by cases h), fun ⟨_, h, _⟩ => (by cases h)⟩
  | refused w => exact ⟨fun h => (by cases h), fun ⟨_, h, _⟩ => (by cases h)⟩

/-- A run under a host, of one turn more, that answers is a step on that turn that answers, and then the run from there. -/
theorem runUnder_succ_next_iff (host : HostOracle) (k n : Nat) (s t : State) :
    runUnder host k (n + 1) s = .next t ↔
      ∃ u, step (s.setSchedule [host k]) = .next u ∧ runUnder host (k + 1) n u = .next t := by
  rw [runUnder]
  cases step (s.setSchedule [host k]) <;> simp

/-! ### Launch -/

/-- A launch's memory is in canonical form (R20, R25). -/
theorem wf_ofCells (cells : List Host.Cell) : Memory.wf (Memory.ofCells cells) = true := by
  induction cells with
  | nil => rfl
  | cons c rest ih =>
    obtain ⟨a, v⟩ := c
    unfold Memory.ofCells
    split
    · exact wf_insert _ _ _ ih (by omega)
    · exact ih

/-- A launch's memory holds exactly what MEM0 defines, outside the device registers (R20, R23). -/
theorem lookup_ofCells (cells : List Host.Cell) (a : Nat) :
    Memory.lookup (Memory.ofCells cells) a =
      if a < 0xBF00 ∨ (0xC000 ≤ a ∧ a < 65536) then Memory.lookup cells a else none := by
  induction cells with
  | nil => simp [Memory.ofCells, Memory.lookup]
  | cons c rest ih =>
    obtain ⟨b, v⟩ := c
    by_cases hb : b < 0xBF00 ∨ (0xC000 ≤ b ∧ b < 65536)
    · rw [Memory.ofCells, if_pos hb]
      by_cases h : b = a
      · subst h
        rw [lookup_insert_same, if_pos hb, Memory.lookup, if_pos rfl]
      · rw [lookup_insert_other _ _ _ _ (fun e => h e.symm), ih, Memory.lookup, if_neg h]
    · rw [Memory.ofCells, if_neg hb, ih]
      by_cases h : b = a
      · subst h
        rw [if_neg hb, if_neg hb]
      · rw [Memory.lookup, if_neg h]

end Sys2Proof.Machine
end

