-- ==== Sys2Proof/Laws/PerInstr.lean ====
section
/-! SUPPORT. The per-instruction family `EncodingInTable`: the bytes an instruction encodes to spell a row of the table of
R51 with the instruction's own mnemonic, by the row's mask and pattern. -/

namespace Sys2Proof.Laws.EncodingInTable

/-- Some row of R51 has the instruction's mnemonic and is spelled by its encoding. -/
def Statement (i : Instr) : Prop :=
  ∃ row ∈ opcodeTable, row.mnemonic = i.mnemonic ∧ (encode i).spells row = true

/-- The mask of a format A or N row leaves the opcode byte alone. -/
theorem word_and_opcodeMask (op x y : Byte) : (op ++ x ++ y) &&& 0xFF0000#24 = op ++ 0#16 := by
  rw [show 0xFF0000#24 = BitVec.allOnes 8 ++ 0#8 ++ 0#8 from rfl, BitVec.and_append, BitVec.and_append,
    BitVec.and_allOnes, BitVec.and_zero, BitVec.and_zero]
  apply BitVec.eq_of_toNat_eq
  rw [BitVec.toNat_append, BitVec.toNat_append, BitVec.toNat_append]
  simp only [Nat.shiftLeft_eq, BitVec.toNat_ofNat, Nat.zero_mod, Nat.or_zero, Nat.reducePow]
  omega

/-- The mask of a format RI or R row leaves the opcode byte and arg1's five high bits. -/
theorem word_and_regMask (op x y : Byte) (hx : x &&& 0xF8#8 = 0#8) :
    (op ++ x ++ y) &&& 0xFFF800#24 = op ++ 0#16 := by
  rw [show 0xFFF800#24 = BitVec.allOnes 8 ++ 0xF8#8 ++ 0#8 from rfl, BitVec.and_append, BitVec.and_append,
    BitVec.and_allOnes, BitVec.and_zero, hx]
  apply BitVec.eq_of_toNat_eq
  rw [BitVec.toNat_append, BitVec.toNat_append, BitVec.toNat_append]
  simp only [Nat.shiftLeft_eq, BitVec.toNat_ofNat, Nat.zero_mod, Nat.or_zero, Nat.reducePow]
  omega

theorem toByte_and (r : Reg) : r.toByte &&& 0xF8#8 = 0#8 := by cases r <;> rfl

theorem loadi (a : Reg) (imm8 : Byte) : Statement (.loadi a imm8) :=
  ⟨opcodeTable[0], by decide, rfl, by
    simp only [InstrBytes.spells, InstrBytes.word, encode, opcodeTable, List.getElem_cons_zero]
    rw [word_and_regMask _ _ _ (toByte_and a)]
    rfl⟩

theorem load (a : Reg) : Statement (.load a) := ⟨opcodeTable[1], by decide, rfl, by cases a <;> rfl⟩
theorem store (a : Reg) : Statement (.store a) := ⟨opcodeTable[2], by decide, rfl, by cases a <;> rfl⟩
theorem mov (a b : Reg) : Statement (.mov a b) := ⟨opcodeTable[3], by decide, rfl, by cases a <;> cases b <;> rfl⟩
theorem add (a b : Reg) : Statement (.add a b) := ⟨opcodeTable[4], by decide, rfl, by cases a <;> cases b <;> rfl⟩
theorem sub (a b : Reg) : Statement (.sub a b) := ⟨opcodeTable[5], by decide, rfl, by cases a <;> cases b <;> rfl⟩
theorem inc (a : Reg) : Statement (.inc a) := ⟨opcodeTable[6], by decide, rfl, by cases a <;> rfl⟩
theorem dec (a : Reg) : Statement (.dec a) := ⟨opcodeTable[7], by decide, rfl, by cases a <;> rfl⟩
theorem and (a b : Reg) : Statement (.and a b) := ⟨opcodeTable[8], by decide, rfl, by cases a <;> cases b <;> rfl⟩
theorem or (a b : Reg) : Statement (.or a b) := ⟨opcodeTable[9], by decide, rfl, by cases a <;> cases b <;> rfl⟩
theorem xor (a b : Reg) : Statement (.xor a b) := ⟨opcodeTable[10], by decide, rfl, by cases a <;> cases b <;> rfl⟩
theorem cmp (a b : Reg) : Statement (.cmp a b) := ⟨opcodeTable[11], by decide, rfl, by cases a <;> cases b <;> rfl⟩
theorem adc (a b : Reg) : Statement (.adc a b) := ⟨opcodeTable[12], by decide, rfl, by cases a <;> cases b <;> rfl⟩
theorem shl (a : Reg) : Statement (.shl a) := ⟨opcodeTable[13], by decide, rfl, by cases a <;> rfl⟩
theorem shr (a : Reg) : Statement (.shr a) := ⟨opcodeTable[14], by decide, rfl, by cases a <;> rfl⟩
theorem sbc (a b : Reg) : Statement (.sbc a b) := ⟨opcodeTable[15], by decide, rfl, by cases a <;> cases b <;> rfl⟩
theorem push (a : Reg) : Statement (.push a) := ⟨opcodeTable[16], by decide, rfl, by cases a <;> rfl⟩
theorem pop (a : Reg) : Statement (.pop a) := ⟨opcodeTable[17], by decide, rfl, by cases a <;> rfl⟩

/-- A format A encoding spells every row that has its opcode in the pattern and the format A mask. -/
theorem encodeA_spells (op : Byte) (addr16 : Word) (row : OpcodeRow) (hp : row.pattern = op ++ 0#16)
    (hm : row.mask = 0xFF0000#24) : (encodeA op addr16).spells row = true := by
  simp [InstrBytes.spells, InstrBytes.word, encodeA, hp, hm, word_and_opcodeMask]

theorem jmp (addr16 : Word) : Statement (.jmp addr16) :=
  ⟨opcodeTable[18], by decide, rfl, encodeA_spells _ _ _ rfl rfl⟩
theorem jz (addr16 : Word) : Statement (.jz addr16) :=
  ⟨opcodeTable[19], by decide, rfl, encodeA_spells _ _ _ rfl rfl⟩
theorem jnz (addr16 : Word) : Statement (.jnz addr16) :=
  ⟨opcodeTable[20], by decide, rfl, encodeA_spells _ _ _ rfl rfl⟩
theorem jc (addr16 : Word) : Statement (.jc addr16) :=
  ⟨opcodeTable[21], by decide, rfl, encodeA_spells _ _ _ rfl rfl⟩
theorem jnc (addr16 : Word) : Statement (.jnc addr16) :=
  ⟨opcodeTable[22], by decide, rfl, encodeA_spells _ _ _ rfl rfl⟩
theorem call (addr16 : Word) : Statement (.call addr16) :=
  ⟨opcodeTable[23], by decide, rfl, encodeA_spells _ _ _ rfl rfl⟩
theorem ret : Statement .ret := ⟨opcodeTable[24], by decide, rfl, rfl⟩
theorem halt : Statement .halt := ⟨opcodeTable[25], by decide, rfl, rfl⟩

end Sys2Proof.Laws.EncodingInTable
end

