-- ==== Sys2Proof/Tests/Slice0.lean ====
section
/-! SUPPORT. Tests: the check of WellFormed refuses ill-formed bytes, every constructor's word written out from the
encoding of spec/30_encoding.md decodes to it, one step of each instruction on values of spec/95_test_vectors.md, and a
witness for the hypotheses of each statement that has any. -/

namespace Sys2Proof.Tests

open Sys2Proof Sys2Proof.Machine

/-! ### WellFormed: one ill-formed term for each check -/

theorem test_unknown_opcode_is_ill_formed : InstrBytes.wellFormed ⟨0x14, 0x00, 0x00⟩ = false := by decide
theorem test_first_register_byte_is_checked : InstrBytes.wellFormed ⟨0x10, 0x08, 0x55⟩ = false := by decide
theorem test_second_register_byte_is_checked : InstrBytes.wellFormed ⟨0x13, 0x00, 0x08⟩ = false := by decide
theorem test_ignored_bytes_are_not_checked : InstrBytes.wellFormed ⟨0x41, 0x08, 0x09⟩ = true := by decide

/-! ### Decode: one word for each constructor, written out from R45, R46, R49 and R51 -/

theorem test_decode_loadi : decode ⟨0x10, 0x00, 0x2A⟩ = .ok (.loadi .r0 42) := rfl
theorem test_decode_load : decode ⟨0x11, 0x03, 0x7E⟩ = .ok (.load .r3) := rfl
theorem test_decode_store : decode ⟨0x12, 0x06, 0x00⟩ = .ok (.store .r6) := rfl
theorem test_decode_mov : decode ⟨0x13, 0x02, 0x00⟩ = .ok (.mov .r2 .r0) := rfl
theorem test_decode_add : decode ⟨0x20, 0x00, 0x01⟩ = .ok (.add .r0 .r1) := rfl
theorem test_decode_sub : decode ⟨0x21, 0x07, 0x01⟩ = .ok (.sub .r7 .r1) := rfl
theorem test_decode_inc : decode ⟨0x22, 0x00, 0xEE⟩ = .ok (.inc .r0) := rfl
theorem test_decode_dec : decode ⟨0x23, 0x02, 0x00⟩ = .ok (.dec .r2) := rfl
theorem test_decode_and : decode ⟨0x24, 0x00, 0x01⟩ = .ok (.and .r0 .r1) := rfl
theorem test_decode_or : decode ⟨0x25, 0x03, 0x04⟩ = .ok (.or .r3 .r4) := rfl
theorem test_decode_xor : decode ⟨0x26, 0x05, 0x05⟩ = .ok (.xor .r5 .r5) := rfl
theorem test_decode_cmp : decode ⟨0x27, 0x00, 0x01⟩ = .ok (.cmp .r0 .r1) := rfl
theorem test_decode_adc : decode ⟨0x28, 0x06, 0x00⟩ = .ok (.adc .r6 .r0) := rfl
theorem test_decode_shl : decode ⟨0x29, 0x00, 0x00⟩ = .ok (.shl .r0) := rfl
theorem test_decode_shr : decode ⟨0x2A, 0x01, 0x00⟩ = .ok (.shr .r1) := rfl
theorem test_decode_sbc : decode ⟨0x2B, 0x06, 0x00⟩ = .ok (.sbc .r6 .r0) := rfl
theorem test_decode_push : decode ⟨0x2C, 0x01, 0x00⟩ = .ok (.push .r1) := rfl
theorem test_decode_pop : decode ⟨0x2D, 0x01, 0x00⟩ = .ok (.pop .r1) := rfl
theorem test_decode_jmp : decode ⟨0x30, 0x12, 0x34⟩ = .ok (.jmp 0x1234) := rfl
theorem test_decode_jz : decode ⟨0x31, 0x00, 0x2B⟩ = .ok (.jz 0x002B) := rfl
theorem test_decode_jnz : decode ⟨0x32, 0x00, 0x16⟩ = .ok (.jnz 0x0016) := rfl
theorem test_decode_jc : decode ⟨0x33, 0x00, 0x25⟩ = .ok (.jc 0x0025) := rfl
theorem test_decode_jnc : decode ⟨0x34, 0x00, 0x22⟩ = .ok (.jnc 0x0022) := rfl
theorem test_decode_call : decode ⟨0x40, 0x00, 0x1C⟩ = .ok (.call 0x001C) := rfl
theorem test_decode_ret : decode ⟨0x41, 0x99, 0x99⟩ = .ok .ret := rfl
theorem test_decode_halt : decode ⟨0xFF, 0x12, 0x34⟩ = .ok .halt := rfl

theorem test_decode_opcode_before_registers : decode ⟨0x14, 0x09, 0x09⟩ = .error (.unknownOpcode 0x14) := rfl
theorem test_decode_first_register_first : decode ⟨0x13, 0x08, 0x09⟩ = .error (.invalidRegister 0x08) := rfl
theorem test_encode_call : encode (.call 0x1234) = ⟨0x40, 0x12, 0x34⟩ := by decide
theorem test_encode_ignored_byte_is_zero : encode (.shl .r7) = ⟨0x29, 0x07, 0x00⟩ := rfl
/-- `match` of the row SHR in spec/opcode_table.json, with R1 in its register field. -/
theorem test_table_word : decodeTableWord 24 0x2A0100 = some (.shr .r1) := by decide

/-! ### Helpers -/

/-- Reset with R0 and R1 given. -/
def two (x0 x1 : Byte) : State := (State.reset.setReg .r0 x0).setReg .r1 x1

/-- Reset with the address pair R6:R7 given. -/
def at16 (hi lo : Byte) : State := (State.reset.setReg .r6 hi).setReg .r7 lo

/-- Reset with SP given. -/
def spAt (sp : Word) : State := State.reset.setSp sp

/-- The flags given. -/
def flags (s : State) (z c : Bool) : State := { s with z := z, c := c }

/-- The extended range as RAM. -/
def ram (s : State) : State := { s with config := { extRegionIsRam := true } }

/-- The other layout of a return address. -/
def lowFirst (s : State) : State := { s with config := { retAddrLayout := .hiAtLower } }

/-- R0, Z and C of a next state. -/
def r0zc : Result → Option (Byte × Bool × Bool)
  | .next t => some (t.reg .r0, t.z, t.c)
  | .fault _ => none
  | .refused _ => none

/-- One field of a next state. -/
def next {α : Type} (f : State → α) : Result → Option α
  | .next t => some (f t)
  | .fault _ => none
  | .refused _ => none

/-- The fault of a stop. -/
def faultOf : Result → Option Fault
  | .next _ => none
  | .fault f => some f
  | .refused _ => none

/-- The bytes listed at three addresses. -/
def listed (a b c : Nat) (t : State) : List (Option Byte) :=
  [Memory.lookup t.mem a, Memory.lookup t.mem b, Memory.lookup t.mem c]

/-! ### One step of each instruction (spec/95_test_vectors.md sections 2.1 to 2.6) -/

theorem test_loadi_writes_no_flag : r0zc (exec (.loadi .r0 0) (flags (two 0x55 0) false true)) = some (0x00, false, true) := by
  decide
theorem test_load_overwrites_the_address_pair :
    next (fun t => (t.reg .r6, t.reg .r7)) (exec (.load .r6) ((at16 0x20 0x05).writeStorage 0x2005 0xC0)) =
      some (0xC0, 0x05) := by decide
theorem test_load_tick_high_before_it_counts :
    next (fun t => (t.reg .r0, t.tick)) (step (((at16 0xBF 0x21).setTick 0x1234).withFetchWord 24 0x110000)) =
      some (0x12, 0x1235) := by decide
theorem test_store_last_data_byte :
    next (listed 0x3FFE 0x3FFF 0x4000) (exec (.store .r6) (at16 0x3F 0xFF)) = some [none, some 0x3F, none] := by decide
theorem test_store_to_vsync :
    next (fun t => (t.devices.vsync, t.mem)) (exec (.store .r0) ((at16 0xBF 0x23).setReg .r0 1)) = some (1, []) := by decide
theorem test_mov : next (fun t => (t.reg .r2, t.reg .r0)) (exec (.mov .r2 .r0) (two 0x68 0)) = some (0x68, 0x68) := by decide
theorem test_add_wraps : r0zc (exec (.add .r0 .r1) (two 0xFF 0x01)) = some (0x00, true, true) := by decide
theorem test_add_ignores_carry_in : r0zc (exec (.add .r0 .r1) (flags (two 0x7F 0x01) false true)) = some (0x80, false, false) := by
  decide
theorem test_sub_borrows : r0zc (exec (.sub .r0 .r1) (two 0x01 0xFF)) = some (0x02, false, true) := by decide
theorem test_sub_ignores_carry_in : r0zc (exec (.sub .r0 .r1) (flags (two 0xFF 0xFF) false true)) = some (0x00, true, false) := by
  decide
theorem test_inc_wraps_and_clears_carry : r0zc (exec (.inc .r0) (flags (two 0xFF 0) false true)) = some (0x00, true, false) := by
  decide
theorem test_dec_wraps_and_clears_carry : r0zc (exec (.dec .r0) (flags (two 0x00 0) true true)) = some (0xFF, false, false) := by
  decide
theorem test_and_clears_carry : r0zc (exec (.and .r0 .r1) (flags (two 0x44 0x40) false true)) = some (0x40, false, false) := by
  decide
theorem test_or_clears_carry : r0zc (exec (.or .r0 .r1) (flags (two 0x0F 0xF0) false true)) = some (0xFF, false, false) := by
  decide
theorem test_xor_with_itself : r0zc (exec (.xor .r0 .r0) (flags (two 0xA5 0) false true)) = some (0x00, true, false) := by decide
theorem test_cmp_less : r0zc (exec (.cmp .r0 .r1) (two 0x1E 0x2A)) = some (0x1E, false, true) := by decide
theorem test_cmp_equal : r0zc (exec (.cmp .r0 .r1) (flags (two 0x2A 0x2A) false true)) = some (0x2A, true, false) := by decide
theorem test_adc_carries : r0zc (exec (.adc .r0 .r1) (flags (two 0xFF 0xFF) false true)) = some (0xFF, false, true) := by decide
theorem test_adc_same_register : r0zc (exec (.adc .r0 .r0) (flags (two 0xA5 0) false true)) = some (0x4B, false, true) := by
  decide
theorem test_shl_is_no_rotate : r0zc (exec (.shl .r0) (flags (two 0x80 0) false true)) = some (0x00, true, true) := by decide
theorem test_shr_is_logical : r0zc (exec (.shr .r0) (flags (two 0x80 0) false true)) = some (0x40, false, false) := by decide
theorem test_sbc_sum_is_not_wrapped : r0zc (exec (.sbc .r0 .r1) (flags (two 0x00 0xFF) false true)) = some (0x00, true, true) := by
  decide
theorem test_sbc_borrows : r0zc (exec (.sbc .r0 .r1) (flags (two 0x02 0x00) false true)) = some (0x01, false, false) := by decide
theorem test_push_last_byte :
    next (fun t => (t.sp, listed 0x8000 0x8001 0x8002 t)) (exec (.push .r0) ((two 0x77 0).setSp 0x8001)) =
      some (0x8000, [none, some 0x77, none]) := by decide
theorem test_pop_writes_no_flag :
    next (fun t => (t.reg .r0, t.sp, t.z)) (exec (.pop .r0) (((two 0x11 0).setSp 0xBEFD).writeStorage 0xBEFE 0x00)) =
      some (0x00, 0xBEFE, false) := by decide
theorem test_jmp : next (fun t => t.pc) (exec (.jmp 0x0100) State.reset) = some 0x0100 := by decide
theorem test_jz_not_taken : next (fun t => t.pc) (exec (.jz 0x0100) (flags State.reset false true)) = some 0x0013 := by decide
theorem test_jnz_taken : next (fun t => t.pc) (exec (.jnz 0x0100) (flags State.reset false true)) = some 0x0100 := by decide
theorem test_jc_taken : next (fun t => t.pc) (exec (.jc 0x0100) (flags State.reset false true)) = some 0x0100 := by decide
theorem test_jnc_not_taken : next (fun t => t.pc) (exec (.jnc 0x0100) (flags State.reset true true)) = some 0x0013 := by decide
theorem test_call_pushes_high_byte_first :
    next (fun t => (t.pc, t.sp, listed 0x8FFE 0x8FFF 0x9000 t)) (exec (.call 0x1234) ((spAt 0x9000).setPc 0x1FF0)) =
      some (0x1234, 0x8FFE, [none, some 0xF3, some 0x1F]) := by decide
theorem test_ret_takes_low_byte_first :
    next (fun t => (t.pc, t.sp)) (exec .ret (((spAt 0xBEFD).writeStorage 0xBEFE 0x19).writeStorage 0xBEFF 0x00)) =
      some (0x0019, 0xBEFF) := by decide
theorem test_halt_counts_and_passes :
    next (fun t => (t.halted, t.pc, t.tick)) (step (State.reset.withFetchWord 24 0xFF1234)) = some (true, 0x0013, 1) := by
  decide

/-! ### Stops (spec/95_test_vectors.md section 2.7) -/

theorem test_unknown_opcode_stops : faultOf (step (State.reset.withFetchWord 24 0x2E0000)) = some (.unknownOpcode 0x0010 0x2E) := by
  decide
theorem test_decode_precedes_the_stack_test :
    faultOf (step (State.reset.withFetchWord 24 0x2D0800)) = some (.invalidRegister 0x0010 0x08) := by decide
theorem test_fetch_stops_at_the_third_byte :
    faultOf (step ((State.reset.setPc 0x1FFE).withFetchWord 24 0x100000)) = some (.invalidMemoryAccess .fetch 0x2000) := by
  decide

/-! ### The assembler (R56, R57, and example E12) -/

theorem test_asm_line : asmLine "  ADD R0, R1 ; R0 = R0 + R1".toList = .ok (.instr (.plain (.add .r0 .r1))) := rfl
theorem test_asm_label_value :
    assembleLines ["CALL F".toList, "HALT".toList, "F:".toList, "RET".toList] = .ok [.call 0x0016, .halt, .ret] := rfl
/-- A label may be spelled like a register or a mnemonic, and only the latter can be named by a jump (log entry 18). -/
theorem test_asm_label_spelling :
    (asmLine "R0:".toList, asmLine "HALT:".toList, asmLine "JMP R0".toList, asmLine "JMP HALT".toList) =
      (.ok (.label "R0".toList), .ok (.label "HALT".toList), .error .badInstruction,
        .ok (.instr (.jumpTo .jmp "HALT".toList))) := rfl
theorem test_asm_immediate_range : asmLine "LOADI R0, 256".toList = .error .immediateOutOfRange := rfl

/-! ### Witnesses: a concrete state and operands for the hypotheses of each statement, and of each of its clauses -/

/-- Reset with LOADI R0, 42 at 0x0010. -/
def loadiProgram : State := State.reset.withFetchWord 24 0x10002A

/-- Reset with one turn scheduled before the rest. -/
def turns (s : State) (l : List Turn) : State := s.setSchedule l

/-- Both bounds of every range that LOAD reads from. -/
theorem witness_LoadReadsStorage :
    LoadableStorage (at16 0x00 0x00) (at16 0x00 0x00).addrPair ∧ LoadableStorage (at16 0x3F 0xFF) (at16 0x3F 0xFF).addrPair ∧
    LoadableStorage (ram (at16 0x40 0x00)) (ram (at16 0x40 0x00)).addrPair ∧
    LoadableStorage (ram (at16 0x7F 0xFF)) (ram (at16 0x7F 0xFF)).addrPair ∧
    LoadableStorage (at16 0x80 0x00) (at16 0x80 0x00).addrPair ∧ LoadableStorage (at16 0xBE 0xFF) (at16 0xBE 0xFF).addrPair ∧
    LoadableStorage (at16 0xC0 0x00) (at16 0xC0 0x00).addrPair ∧ LoadableStorage (at16 0xFF 0xFF) (at16 0xFF 0xFF).addrPair := by
  unfold LoadableStorage
  decide

/-- Each of the nine registers. -/
theorem witness_LoadReadsDeviceRegisters :
    (at16 0xBF 0x00).addrPair = 0xBF00 ∧ (at16 0xBF 0x01).addrPair = 0xBF01 ∧ (at16 0xBF 0x02).addrPair = 0xBF02 ∧
    (at16 0xBF 0x03).addrPair = 0xBF03 ∧ (at16 0xBF 0x04).addrPair = 0xBF04 ∧ (at16 0xBF 0x20).addrPair = 0xBF20 ∧
    (at16 0xBF 0x21).addrPair = 0xBF21 ∧ (at16 0xBF 0x22).addrPair = 0xBF22 ∧ (at16 0xBF 0x23).addrPair = 0xBF23 ∧
    [0xBF00, 0xBF01, 0xBF02, 0xBF03, 0xBF04, 0xBF20, 0xBF21, 0xBF22, 0xBF23] = deviceAddrs := by decide

/-- Both bounds of the extended range; the first and last address of the holes among the device registers; a fault. -/
theorem witness_LoadStopsWhereNothingIsReadable :
    (at16 0x40 0x00).addrPair.toNat = 0x4000 ∧ (at16 0x7F 0xFF).addrPair.toNat = 0x7FFF ∧
    State.reset.config.extRegionIsRam = false ∧ (at16 0xBF 0x05).addrPair ∉ deviceAddrs ∧
    (at16 0xBF 0x1F).addrPair ∉ deviceAddrs ∧ (at16 0xBF 0x24).addrPair ∉ deviceAddrs ∧
    (at16 0xBF 0xFF).addrPair ∉ deviceAddrs ∧
    faultOf (exec (.load .r0) (at16 0x7F 0xFF)) = some (.invalidMemoryAccess .load 0x7FFF) ∧
    faultOf (exec (.load .r0) (at16 0xBF 0x05)) = some (.undefinedMMIOAccess .load 0xBF05 none) := by decide

/-- Both bounds of every range that STORE writes to. -/
theorem witness_StoreWritesStorage :
    StorableStorage (at16 0x20 0x00) (at16 0x20 0x00).addrPair ∧ StorableStorage (at16 0x3F 0xFF) (at16 0x3F 0xFF).addrPair ∧
    StorableStorage (ram (at16 0x40 0x00)) (ram (at16 0x40 0x00)).addrPair ∧
    StorableStorage (ram (at16 0x7F 0xFF)) (ram (at16 0x7F 0xFF)).addrPair ∧
    StorableStorage (at16 0x80 0x00) (at16 0x80 0x00).addrPair ∧ StorableStorage (at16 0xBE 0xFF) (at16 0xBE 0xFF).addrPair ∧
    StorableStorage (at16 0xC0 0x00) (at16 0xC0 0x00).addrPair ∧ StorableStorage (at16 0xFF 0xFF) (at16 0xFF 0xFF).addrPair := by
  unfold StorableStorage
  decide

theorem witness_StoreToVsyncRequestsASwap :
    ((at16 0xBF 0x23).setReg .r0 1).addrPair = 0xBF23 ∧ ((at16 0xBF 0x23).setReg .r0 1).reg .r0 = 1 := by decide

/-- Both bounds of each range, VSYNC with another value than 1, and a fault. -/
theorem witness_StoreStopsWhereNothingIsWritable :
    (at16 0x00 0x00).addrPair.toNat ≤ 0x1FFF ∧ (at16 0x1F 0xFF).addrPair.toNat = 0x1FFF ∧
    (at16 0x40 0x00).addrPair.toNat = 0x4000 ∧ (at16 0x7F 0xFF).addrPair.toNat = 0x7FFF ∧
    (at16 0xBF 0x00).addrPair.toNat = 0xBF00 ∧ (at16 0xBF 0xFF).addrPair.toNat = 0xBFFF ∧
    ((at16 0xBF 0x23).setReg .r0 2).addrPair = 0xBF23 ∧ ((at16 0xBF 0x23).setReg .r0 2).reg .r0 ≠ 1 ∧
    faultOf (exec (.store .r0) (at16 0x1F 0xFF)) = some (.invalidMemoryAccess .store 0x1FFF) ∧
    faultOf (exec (.store .r0) ((at16 0xBF 0x23).setReg .r0 2)) = some (.undefinedMMIOAccess .store 0xBF23 (some 2)) := by
  decide

theorem witness_StoreThenLoadReturnsTheByte : StorableStorage (at16 0xC0 0x00) (at16 0xC0 0x00).addrPair := by
  unfold StorableStorage
  decide

theorem witness_CmpIsSubWithoutTheResult : ∃ t, exec (.sub .r0 .r1) (two 0x1E 0x2A) = .next t := ⟨_, rfl⟩
theorem witness_AddThenAdcAddsTwoByteNumbers : Reg.r6 ≠ .r7 ∧ Reg.r0 ≠ .r7 := by decide
theorem witness_SubThenSbcSubtractsTwoByteNumbers : Reg.r6 ≠ .r7 ∧ Reg.r6 ≠ .r7 := by decide

theorem witness_PushStoresThenDecrementsSp : 0x8001 ≤ (spAt 0x8001).sp.toNat ∧ 0x8001 ≤ State.reset.sp.toNat := by decide
theorem witness_PopIncrementsSpThenReads : (spAt 0x8000).sp.toNat < 0xBEFF ∧ (spAt 0xBEFE).sp.toNat < 0xBEFF := by decide
theorem witness_PushThenPopReturnsTheByte :
    (0x8001 ≤ (spAt 0x8001).sp.toNat ∧ (spAt 0x8001).sp.toNat ≤ 0xBEFF) ∧
    (0x8001 ≤ (spAt 0xBEFF).sp.toNat ∧ (spAt 0xBEFF).sp.toNat ≤ 0xBEFF) := by decide

/-- The lowest and the highest SP, under each layout. -/
theorem witness_CallPushesTheReturnAddress :
    0x8002 ≤ (spAt 0x8002).sp.toNat ∧ (spAt 0x8002).config.retAddrLayout = .hiAtHigher ∧
    0x8002 ≤ (lowFirst State.reset).sp.toNat ∧ (lowFirst State.reset).config.retAddrLayout = .hiAtLower := by decide
theorem witness_RetTakesPcFromTheStack :
    (spAt 0xBEFD).sp.toNat < 0xBEFE ∧ (spAt 0xBEFD).config.retAddrLayout = .hiAtHigher ∧
    (lowFirst (spAt 0x8000)).sp.toNat < 0xBEFE ∧ (lowFirst (spAt 0x8000)).config.retAddrLayout = .hiAtLower := by decide
/-- The state that CALL leaves is itself such a later state. -/
theorem witness_RetReturnsAfterTheMatchingCall :
    0x8002 ≤ (spAt 0x8002).sp.toNat ∧ (spAt 0x8002).sp.toNat ≤ 0xBEFF ∧
    ∃ t, exec (.call 0x1234) (spAt 0x8002) = .next t ∧ ∃ w : State, w.sp = t.sp ∧ w.config = t.config ∧
      w.readStorage (spAt 0x8002).sp = t.readStorage (spAt 0x8002).sp ∧
      w.readStorage ((spAt 0x8002).sp - 1#16) = t.readStorage ((spAt 0x8002).sp - 1#16) :=
  ⟨by decide, by decide, _, rfl, _, rfl, rfl, rfl, rfl⟩
/-- Each test on both sides of its bound. -/
theorem witness_StackFaultsExactlyAtTheBounds :
    faultOf (exec (.push .r0) (spAt 0x8000)) = some (.stackOverflow 0x8000) ∧
    faultOf (exec (.push .r0) (spAt 0x8001)) = none ∧
    faultOf (exec (.call 0x0010) (spAt 0x8001)) = some (.stackOverflow 0x8001) ∧
    faultOf (exec (.call 0x0010) (spAt 0x8002)) = none ∧
    faultOf (exec (.pop .r0) (spAt 0xBEFF)) = some (.stackUnderflow 0xBEFF) ∧
    faultOf (exec (.pop .r0) (spAt 0xBEFE)) = none ∧
    faultOf (exec .ret (spAt 0xBEFE)) = some (.stackUnderflow 0xBEFE) ∧
    faultOf (exec .ret (spAt 0xBEFD)) = none := by decide
theorem witness_StackHoldsExactly16127Bytes : State.reset.sp = 0xBEFF ∧ 16127 ≤ 16127 ∧ 16127 < 16128 := by decide

/-- The address of the two bytes, and each value of each flag. -/
theorem witness_JumpsWritePcAndNothingElse :
    (0x1234#16).toNat = (0x12#8).toNat * 256 + (0x34#8).toNat ∧ (flags State.reset true true).z = true ∧
    (flags State.reset true true).c = true ∧ State.reset.z = false ∧ State.reset.c = false := by decide
theorem witness_CompareThenJumpBranchesOnUnsignedOrder :
    (0x0031#16).toNat ≠ (State.reset.pc.toNat + 6) % 65536 := by decide

/-- A halted machine on the CPU's turn, scheduled or not, and on the host's. -/
theorem witness_HaltedCpuHasNoStep :
    ({ State.reset with halted := true } : State).halted = true ∧
    CpuTurn { State.reset with halted := true } { State.reset with halted := true } ∧
    CpuTurn { State.reset with halted := true, schedule := [.cpu] } { State.reset with halted := true } ∧
    ({ State.reset with halted := true, schedule := [.host .processSwap] } : State).dueTurns = .host .processSwap :: [] :=
  ⟨rfl, .inl ⟨rfl, rfl⟩, .inr ⟨[], rfl, rfl⟩, rfl⟩

/-- A program of one instruction at the first address, one at the last, and one that faults. -/
theorem witness_StepRunsTheDecodedInstruction :
    (CpuTurn loadiProgram loadiProgram ∧ loadiProgram.halted = false ∧ loadiProgram.pc.toNat = 0x0010 ∧
      decode ⟨loadiProgram.readStorage loadiProgram.pc, loadiProgram.readStorage (loadiProgram.pc + 1#16),
        loadiProgram.readStorage (loadiProgram.pc + 2#16)⟩ = .ok (.loadi .r0 42) ∧
      ∃ t, exec (.loadi .r0 42) loadiProgram = .next t) ∧
    next (fun t => t.pc) (step (((State.reset.setPc 0x1FFD).withFetchWord 24 0xFF0000))) = some 0x2000 ∧
    faultOf (exec .ret (State.reset.withFetchWord 24 0x410000)) = some (.stackUnderflow 0xBEFF) :=
  ⟨⟨.inl ⟨rfl, rfl⟩, rfl, rfl, rfl, _, rfl⟩, by decide, by decide⟩

/-- PC on each side of each bound, and bytes of each decode error. -/
theorem witness_FetchAndDecodeFaultsInOrder :
    CpuTurn State.reset State.reset ∧ State.reset.halted = false ∧
    ¬ InCode 0x000F ∧ ¬ InCode 0x2000 ∧ (InCode 0x1FFF ∧ ¬ InCode (0x1FFF + 1#16)) ∧
    (InCode 0x1FFE ∧ InCode (0x1FFE + 1#16) ∧ ¬ InCode (0x1FFE + 2#16)) ∧
    (InCode 0x0010 ∧ InCode (0x0010 + 1#16) ∧ InCode (0x0010 + 2#16)) ∧
    (InCode 0x1FFD ∧ InCode (0x1FFD + 1#16) ∧ InCode (0x1FFD + 2#16)) ∧
    faultOf (step (State.reset.withFetchWord 24 0x000000)) = some (.unknownOpcode 0x0010 0x00) ∧
    faultOf (step (State.reset.withFetchWord 24 0x10FF55)) = some (.invalidRegister 0x0010 0xFF) := by
  refine ⟨.inl ⟨rfl, rfl⟩, rfl, ?_⟩
  unfold InCode
  decide

theorem witness_CpuExecutesOnlyFromTheCodeSegment :
    CpuTurn loadiProgram loadiProgram ∧ ∃ t, step loadiProgram = .next t := ⟨.inl ⟨rfl, rfl⟩, _, rfl⟩

/-- A step of the CPU at the wrap of TICK, and a turn of the host. -/
theorem witness_TickCountsCompletedInstructions :
    CpuTurn loadiProgram loadiProgram ∧ next (fun t => t.tick) (step (loadiProgram.setTick 0xFFFF)) = some 0 ∧
    ∃ t, step (turns State.reset [.host (.frameTick 7)]) = .next t := ⟨.inl ⟨rfl, rfl⟩, by decide, _, rfl⟩

/-- Each of the four moves. -/
theorem witness_HostTurnChangesOnlyDevices :
    (turns State.reset [.host (.keyChange 0x44 0x04)]).dueTurns = .host (.keyChange 0x44 0x04) :: [] ∧
    (turns State.reset [.host (.mouseChange 127 0 0xFF)]).dueTurns = .host (.mouseChange 127 0 0xFF) :: [] ∧
    (turns State.reset [.host (.frameTick 255)]).dueTurns = .host (.frameTick 255) :: [] ∧
    (turns State.reset [.host .processSwap]).dueTurns = .host .processSwap :: [] := by decide

theorem witness_KeysPressedIsConsumedByALoad : (at16 0xBF 0x01).addrPair = 0xBF01 ∧ Reg.r0 ≠ .r6 ∧ Reg.r0 ≠ .r7 := by decide
theorem witness_VsyncReadsOneUntilTheSwapIsProcessed :
    ((at16 0xBF 0x23).setReg .r0 1).addrPair = 0xBF23 ∧ ((at16 0xBF 0x23).setReg .r0 1).reg .r0 = 1 := by decide

/-- A row of the table, bytes that spell it, and bytes that do not. -/
theorem witness_DecodeAgreesWithMaskAndMatch :
    (⟨"MOV", .rr, 0x130000#24, 0xFFF8F8#24⟩ : OpcodeRow) ∈ opcodeTable ∧
    InstrBytes.spells ⟨0x13, 0x07, 0x07⟩ ⟨"MOV", .rr, 0x130000#24, 0xFFF8F8#24⟩ = true ∧
    InstrBytes.spells ⟨0x13, 0x07, 0x08⟩ ⟨"MOV", .rr, 0x130000#24, 0xFFF8F8#24⟩ = false := by decide

/-- An opcode of no row; a row, with each register byte on each side of its bound. -/
theorem witness_DecodeFollowsTheProcedure :
    (∀ row ∈ opcodeTable, opcodeOfRow row ≠ 0x14) ∧
    (⟨"MOV", .rr, 0x130000#24, 0xFFF8F8#24⟩ : OpcodeRow) ∈ opcodeTable ∧
    opcodeOfRow ⟨"MOV", .rr, 0x130000#24, 0xFFF8F8#24⟩ = 0x13 ∧ Format.rr ∈ [Format.ri, Format.r, Format.rr] ∧
    7 < (0x08#8).toNat ∧ (0x07#8).toNat ≤ 7 := by decide

/-- Every bound of the five ranges. -/
theorem witness_UnknownOpcodesAreTheListedRanges :
    ∀ op ∈ [0x00#8, 0x0F#8, 0x14#8, 0x1F#8, 0x2E#8, 0x2F#8, 0x35#8, 0x3F#8, 0x42#8, 0xFE#8],
      ∀ row ∈ opcodeTable, opcodeOfRow row ≠ op := by decide

theorem witness_IgnoredBytesDoNotMatter :
    (⟨"SHL", .r, 0x290000#24, 0xFFF800#24⟩ : OpcodeRow) ∈ opcodeTable ∧
    opcodeOfRow ⟨"SHL", .r, 0x290000#24, 0xFFF800#24⟩ = 0x29 ∧
    (⟨"RET", .n, 0x410000#24, 0xFF0000#24⟩ : OpcodeRow) ∈ opcodeTable ∧
    opcodeOfRow ⟨"RET", .n, 0x410000#24, 0xFF0000#24⟩ = 0x41 := by decide

theorem witness_OnlyTheFirstOperandIsWritten : ∃ t, exec (.mov .r2 .r0) State.reset = .next t := ⟨_, rfl⟩

/-- Each flag writer and each conditional jump answers; an instruction that writes no flag and one that reads none. -/
theorem witness_FlagWritersAndReaders :
    (∀ i ∈ [Instr.add .r0 .r1, .adc .r0 .r1, .sub .r0 .r1, .sbc .r0 .r1, .cmp .r0 .r1, .inc .r0, .dec .r0, .and .r0 .r1,
      .or .r0 .r1, .xor .r0 .r1, .shl .r0, .shr .r0, .jz 0x0100, .jnz 0x0100, .jc 0x0100, .jnc 0x0100], (next (fun t => t.pc) (exec i State.reset)).isSome = true) ∧
    writesFlags (.mov .r0 .r1) = false ∧ readsZ (.jc 0x0010) = false ∧ readsC (.jz 0x0010) = false ∧
    (next (fun t => t.pc) (exec (.mov .r0 .r1) State.reset)).isSome = true ∧
    (next (fun t => t.pc) (exec (.jc 0x0010) State.reset)).isSome = true ∧
    (next (fun t => t.pc) (exec (.jz 0x0010) State.reset)).isSome = true := by decide

/-- Each of the four at a bound of the stack, and an instruction that leaves SP. -/
theorem witness_OnlyStackInstructionsMoveSp :
    next (fun t => t.sp) (exec (.push .r0) (spAt 0x8001)) = some 0x8000 ∧
    next (fun t => t.sp) (exec (.pop .r0) (spAt 0xBEFE)) = some 0xBEFF ∧
    next (fun t => t.sp) (exec (.call 0x0010) (spAt 0x8002)) = some 0x8000 ∧
    next (fun t => t.sp) (exec .ret (spAt 0xBEFD)) = some 0xBEFF ∧
    next (fun t => t.sp) (exec (.inc .r0) (spAt 0x8000)) = some 0x8000 := by decide

theorem witness_OnlyStorePushAndCallWriteMemory :
    (∃ t, exec (.store .r0) (at16 0x20 0x00) = .next t) ∧ (∃ t, exec (.push .r0) State.reset = .next t) ∧
    (∃ t, exec (.call 0x0010) State.reset = .next t) ∧ ∃ t, exec (.add .r0 .r1) State.reset = .next t :=
  ⟨⟨_, rfl⟩, ⟨_, rfl⟩, ⟨_, rfl⟩, _, rfl⟩
theorem witness_DevicesChangeOnlyByTheTwoSideEffects :
    (∃ t, exec (.load .r0) (at16 0xBF 0x01) = .next t) ∧
    (∃ t, exec (.store .r0) ((at16 0xBF 0x23).setReg .r0 1) = .next t) ∧ ∃ t, exec (.add .r0 .r1) State.reset = .next t :=
  ⟨⟨_, rfl⟩, ⟨_, rfl⟩, _, rfl⟩
theorem witness_OnlyHaltSetsHalted :
    (∃ t, exec .halt State.reset = .next t) ∧ ∃ t, exec (.inc .r0) State.reset = .next t := ⟨⟨_, rfl⟩, _, rfl⟩

/-- An instruction that cannot fault, and each kind of fault at execution. -/
theorem witness_FaultsAreTheListedOnes :
    mayFault (.mov .r0 .r1) = false ∧
    faultOf (exec (.load .r0) (at16 0x40 0x00)) = some (.invalidMemoryAccess .load 0x4000) ∧
    faultOf (exec (.store .r0) (at16 0xBF 0x00)) = some (.undefinedMMIOAccess .store 0xBF00 (some 0)) ∧
    faultOf (exec (.call 0x0010) (spAt 0x8001)) = some (.stackOverflow 0x8001) ∧
    faultOf (exec .ret (spAt 0xBEFE)) = some (.stackUnderflow 0xBEFE) := by decide

/-- `loadiProgram` meets the invariant: its listed bytes are those at 0x0010 to 0x0012. -/
theorem loadiProgram_inv : loadiProgram.Inv where
  memCanonical := by decide
  noDeviceStorage := by
    intro addr h _
    have hm : loadiProgram.mem = [(0x10, 0x10), (0x11, 0x00), (0x12, 0x2A)] := by decide
    rw [hm]
    have h0 : ¬ 0x10 = addr.toNat := by omega
    have h1 : ¬ 0x11 = addr.toNat := by omega
    have h2 : ¬ 0x12 = addr.toNat := by omega
    simp only [Memory.lookup, if_neg h0, if_neg h1, if_neg h2]
  spLow := by decide
  spHigh := by decide
  mouseX := by decide
  mouseY := by decide
  vsync := .inl rfl

theorem witness_StepKeepsTheInvariant : loadiProgram.Inv ∧ ∃ t, step loadiProgram = .next t := ⟨loadiProgram_inv, _, rfl⟩
theorem witness_RunsNeverChangeTheLoadedImage : loadiProgram.Inv ∧ ∃ t, runs 1 loadiProgram = .next t :=
  ⟨loadiProgram_inv, _, rfl⟩

/-- The register values of the pixels (5, 3) and (127, 127), and the first and last byte of the framebuffer. -/
theorem witness_PixelsFillTheFramebuffer :
    ((at16 0xC1 0x85).reg .r6).toNat = 0xC0 + (3#7).toNat / 2 ∧
    ((at16 0xC1 0x85).reg .r7).toNat = (3#7).toNat % 2 * 128 + (5#7).toNat ∧ pixelAddr 5 3 = 0xC185 ∧
    ((at16 0xFF 0xFF).reg .r6).toNat = 0xC0 + (127#7).toNat / 2 ∧
    ((at16 0xFF 0xFF).reg .r7).toNat = (127#7).toNat % 2 * 128 + (127#7).toNat ∧ pixelAddr 127 127 = 0xFFFF ∧
    0xC000 ≤ (0xC000#16).toNat ∧ 0xC000 ≤ (0xFFFF#16).toNat := by decide

/-- The second instruction of a program of two. -/
theorem witness_ProgramImageHoldsEveryInstruction :
    programOrigin + 3 * [Instr.loadi .r0 42, .halt].length ≤ 0x2000 ∧ [Instr.loadi .r0 42, .halt][1]? = some .halt ∧
    (0x0013#16).toNat = programOrigin + 3 * 1 := by decide

/-! ### Launches and hosts -/

/-- VSYNC is 0 whatever a launch presents; a byte given at a device register's address is no storage. -/
theorem test_launch_inputs :
    let s := State.launch {} [(0x0010, 0xFF), (0xBF23, 1), (0xC000, 7)] { mouseX := 127, keysState := 0x44 } [] [] 0
    (s.devices.vsync, s.devices.mouseX, s.devices.keysState, s.mem) = (0, 127, 0x44, [(0x0010, 0xFF), (0xC000, 7)]) := by
  decide

/-- `withFetchWord` puts the CPU's turn before a host move that the routine would make. -/
theorem test_withFetchWord_before_routine :
    next (fun t => (t.reg .r0, t.schedule, t.routine))
      (step (({ State.reset with routine := [.host .processSwap] } : State).withFetchWord 24 0x10002A)) =
        some (42, [], [.host .processSwap]) := by decide

/-- A pending swap, and a host whose routine processes swaps. -/
def pending : State :=
  { loadiProgram with devices := { loadiProgram.devices with vsync := 1 }, routine := [.cpu, .host .processSwap] }

/-- A step that uses up the schedule, one into the routine, and a host move that is next. -/
theorem witness_TurnsFollowScheduleThenRoutine :
    (∃ t, step (turns pending [.cpu]) = .next t) ∧ (∃ t, step pending = .next t) ∧
    (turns pending [.host .processSwap]).turnNumber 0 = .host .processSwap ∧ pending.turnNumber 0 = .cpu ∧
    Turn.host .processSwap ∈ pending.routine ∧ pending.turnNumber 3 = .host .processSwap :=
  ⟨⟨_, rfl⟩, ⟨_, rfl⟩, by decide, by decide, by decide, by decide⟩

/-- An idle host, and one instruction of the CPU. -/
theorem witness_PendingSwapWaitsForTheHost :
    pending.devices.vsync = 1 ∧ (∀ m, 0 ≤ m → m < 0 + 1 → (fun _ : Nat => Turn.cpu) m ≠ .host .processSwap) ∧
    ∃ t, runUnder (fun _ => .cpu) 0 1 pending = .next t := ⟨rfl, by decide, _, rfl⟩

/-- A host that only processes swaps meets the assumption; a state whose routine processes swaps, and its run to VSYNC = 0. -/
theorem witness_FairHostProcessesThePendingSwap :
    pending.devices.vsync = 1 ∧ HostProcessesSwap (fun _ => .host .processSwap) pending ∧
    Turn.host .processSwap ∈ pending.routine ∧ next (fun t => t.devices.vsync) (runs 2 pending) = some 0 :=
  ⟨rfl, fun n _ _ _ => ⟨n, Nat.le_refl n, rfl⟩, by decide, by decide⟩

end Sys2Proof.Tests
end

section
/-! SUPPORT. Register operands through the decoder (spec/30_encoding.md R46, R47), and what writing one register and
passing the instruction leaves as it was (spec/10_state.md R10, R12). -/

namespace Sys2Proof

/-- The byte a register is written as names that register (R47). -/
@[simp] theorem Reg.ofByte?_toByte (r : Reg) : Reg.ofByte? r.toByte = some r := by
  cases r <;> rfl

/-- Decoding goes on with the register whose byte it reads (R47). -/
@[simp] theorem withReg_toByte (r : Reg) (k : Reg → Except DecodeError Instr) : withReg r.toByte k = k r := by
  simp [withReg]

/-- The operands of an encoded format RR instruction are read back in their order (R46). -/
@[simp] theorem decodeRR_encodeRR (opcode : Byte) (a b : Reg) (mk : Reg → Reg → Instr) :
    decodeRR (encodeRR opcode a b) mk = .ok (mk a b) := by
  simp [decodeRR, encodeRR]

end Sys2Proof

namespace Sys2Proof.Machine

/-- A PC of `pc + 3` is `pc_next`, wrap included (R12). -/
theorem pcPassed_of_pc_eq {s t : State} (h : t.pc = s.pc + 3#16) : PcPassed s t := by
  rw [PcPassed, h, BitVec.toNat_add]
  rfl

/-- A write of Ra leaves the other general registers as they were (R10). -/
theorem sameRegsBut_setReg (s : State) (a : Reg) (v : Byte) : SameRegsBut (some a) s (s.setReg a v) := by
  intro r hr
  exact reg_setReg_other s a r v (fun h => hr (congrArg some h))

/-- Ra and PC written, and nothing else of the machine. -/
theorem registerFrame_setReg_advance (s : State) (a : Reg) (v : Byte) :
    RegisterFrame (some a) s (s.setReg a v).advance where
  fixed := ⟨rfl, rfl, rfl, rfl, rfl⟩
  sp := rfl
  halted := rfl
  devices := rfl
  memory := by intro addr; simp
  regs := sameRegsBut_setReg s a v

/-- Everything an instruction does that writes `v` to Ra, no flag, and passes on: the common end of LOADI and MOV. -/
theorem setReg_advance_effect (s : State) (a : Reg) (v : Byte) :
    (s.setReg a v).advance.reg a = v ∧ SameFlags s (s.setReg a v).advance ∧
      PcPassed s (s.setReg a v).advance ∧ RegisterFrame (some a) s (s.setReg a v).advance :=
  ⟨by simp, ⟨rfl, rfl⟩, pcPassed_of_pc_eq (by simp), registerFrame_setReg_advance s a v⟩

end Sys2Proof.Machine
end

section
/-! Data movement: LOADI and MOV (spec/40_data_movement.md R60, R63). -/

namespace Sys2Proof.Machine

theorem exec_loadi (a : Reg) (imm8 : Byte) (s : State) :
    exec (.loadi a imm8) s = .next (s.setReg a imm8).advance := rfl

theorem exec_mov (a b : Reg) (s : State) :
    exec (.mov a b) s = .next (s.setReg a (s.reg b)).advance := rfl

/-- The bytes `10 aa ii` (R60). -/
theorem spelled_loadi (a : Reg) (imm8 : Byte) : Spelled ⟨0x10, a.toByte, imm8⟩ (.loadi a imm8) :=
  ⟨rfl, withReg_toByte a fun r => .ok (.loadi r imm8)⟩

/-- The bytes `13 aa bb` (R63). -/
theorem spelled_mov (a b : Reg) : Spelled ⟨0x13, a.toByte, b.toByte⟩ (.mov a b) :=
  ⟨rfl, decodeRR_encodeRR 0x13 a b .mov⟩

/-- Settles O1: LOADI ends in one register write and the advance of PC, whose effect is known. -/
theorem loadiWritesTheImmediate : Obligations.LoadiWritesTheImmediate := by
  intro a imm8 s
  exact ⟨spelled_loadi a imm8, (s.setReg a imm8).advance, exec_loadi a imm8 s, setReg_advance_effect s a imm8⟩

/-- Settles O2: MOV ends as LOADI does, with Rb's old value written; so `a = b` is no special case. -/
theorem movCopiesTheSecondOperand : Obligations.MovCopiesTheSecondOperand := by
  intro a b s
  exact ⟨spelled_mov a b, (s.setReg a (s.reg b)).advance, exec_mov a b s, setReg_advance_effect s a (s.reg b)⟩

end Sys2Proof.Machine
end

section
/-! SUPPORT. What the flag-writing instructions compute, as numbers (spec/10_state.md R14, spec/41_arithmetic_logic.md R64
to R76), and the end that all but CMP share: Ra and both flags written, PC past the instruction. -/

namespace Sys2Proof.Machine

/-- Z says that the 8-bit result is the number 0 (R14). -/
theorem zeroFlag_iff (result : Byte) : zeroFlag result = true ↔ result.toNat = 0 := by
  rw [zeroFlag, beq_iff_eq]
  exact BitVec.toNat_inj.symm

theorem flagNat_le_one (b : Bool) : flagNat b ≤ 1 := by
  cases b <;> decide

/-- The sum of two bytes and a carry in, modulo 256 (R65, R73). -/
theorem addOut_result_toNat (x y : Byte) (carryIn : Bool) :
    (addOut x y carryIn).result.toNat = (x.toNat + y.toNat + flagNat carryIn) % 256 :=
  BitVec.toNat_ofNat (x.toNat + y.toNat + flagNat carryIn) 8

/-- The carry: the exact sum does not fit in 8 bits (R65, R73). -/
theorem addOut_carry_iff (x y : Byte) (carryIn : Bool) :
    (addOut x y carryIn).carry = true ↔ x.toNat + y.toNat + flagNat carryIn > 255 :=
  decide_eq_true_iff

/-- The difference of two bytes and a borrow in, modulo 256; 512 keeps the natural subtraction exact (R66, R76). -/
theorem subOut_result_toNat (x y : Byte) (borrowIn : Bool) :
    (subOut x y borrowIn).result.toNat = (x.toNat + 512 - y.toNat - flagNat borrowIn) % 256 := by
  have hy := y.isLt
  have hborrow := flagNat_le_one borrowIn
  rw [subOut, diffOut, BitVec.toNat_ofInt]
  omega

/-- The borrow: the exact difference is below zero, the subtrahend's sum with the borrow in not wrapped (R66, R76, D20). -/
theorem subOut_carry_iff (x y : Byte) (borrowIn : Bool) :
    (subOut x y borrowIn).carry = true ↔ x.toNat < y.toNat + flagNat borrowIn := by
  rw [subOut, diffOut, decide_eq_true_iff]
  omega

/-- The operations that clear C never set it (R67 to R71). -/
theorem clearingOut_carry_iff (result : Byte) : (clearingOut result).carry = true ↔ False :=
  iff_of_false Bool.false_ne_true id

/-- The frame does not speak of the flags, so writing them keeps it. -/
theorem RegisterFrame.setFlags {written : Option Reg} {s t : State} (h : RegisterFrame written s t) (o : AluOut) :
    RegisterFrame written s (t.setFlags o) where
  fixed := ⟨h.fixed.tick, h.fixed.config, h.fixed.schedule, h.fixed.routine, h.fixed.launchId⟩
  sp := h.sp
  halted := h.halted
  devices := h.devices
  memory := h.memory
  regs := h.regs

/-- An instruction that ends by writing an operation's outcome to Ra and the flags (R64 (c), (d)) has the effect that
the outcome's number and carry say. -/
theorem aluEffect_of_exec_eq {i : Instr} {a : Reg} {s : State} {o : AluOut} {value : Nat} {carry : Prop}
    (hexec : exec i s = s.writeResult a o) (hvalue : o.result.toNat = value) (hcarry : o.carry = true ↔ carry) :
    AluEffect i a s value carry := by
  refine ⟨((s.setReg a o.result).setFlags o).advance, hexec, ?value, ?zero, hcarry, pcPassed_of_pc_eq rfl,
    (registerFrame_setReg_advance s a o.result).setFlags o⟩
  case value => simp [hvalue]
  case zero =>
    rw [← hvalue]
    exact zeroFlag_iff o.result

end Sys2Proof.Machine
end

section
/-! Arithmetic and logic: ADD, SUB, AND, OR, XOR and ADC (spec/41_arithmetic_logic.md R65, R66, R69 to R71, R73). -/

namespace Sys2Proof.Machine

theorem exec_add (a b : Reg) (s : State) :
    exec (.add a b) s = s.writeResult a (addOut (s.reg a) (s.reg b) false) := rfl

theorem exec_sub (a b : Reg) (s : State) :
    exec (.sub a b) s = s.writeResult a (subOut (s.reg a) (s.reg b) false) := rfl

theorem exec_and (a b : Reg) (s : State) :
    exec (.and a b) s = s.writeResult a (clearingOut (s.reg a &&& s.reg b)) := rfl

theorem exec_or (a b : Reg) (s : State) :
    exec (.or a b) s = s.writeResult a (clearingOut (s.reg a ||| s.reg b)) := rfl

theorem exec_xor (a b : Reg) (s : State) :
    exec (.xor a b) s = s.writeResult a (clearingOut (s.reg a ^^^ s.reg b)) := rfl

theorem exec_adc (a b : Reg) (s : State) :
    exec (.adc a b) s = s.writeResult a (addOut (s.reg a) (s.reg b) s.c) := rfl

/-- The bytes `20 aa bb` (R65). -/
theorem spelled_add (a b : Reg) : Spelled ⟨0x20, a.toByte, b.toByte⟩ (.add a b) :=
  ⟨rfl, decodeRR_encodeRR 0x20 a b .add⟩

/-- The bytes `21 aa bb` (R66). -/
theorem spelled_sub (a b : Reg) : Spelled ⟨0x21, a.toByte, b.toByte⟩ (.sub a b) :=
  ⟨rfl, decodeRR_encodeRR 0x21 a b .sub⟩

/-- The bytes `24 aa bb` (R69). -/
theorem spelled_and (a b : Reg) : Spelled ⟨0x24, a.toByte, b.toByte⟩ (.and a b) :=
  ⟨rfl, decodeRR_encodeRR 0x24 a b .and⟩

/-- The bytes `25 aa bb` (R70). -/
theorem spelled_or (a b : Reg) : Spelled ⟨0x25, a.toByte, b.toByte⟩ (.or a b) :=
  ⟨rfl, decodeRR_encodeRR 0x25 a b .or⟩

/-- The bytes `26 aa bb` (R71). -/
theorem spelled_xor (a b : Reg) : Spelled ⟨0x26, a.toByte, b.toByte⟩ (.xor a b) :=
  ⟨rfl, decodeRR_encodeRR 0x26 a b .xor⟩

/-- The bytes `28 aa bb` (R73). -/
theorem spelled_adc (a b : Reg) : Spelled ⟨0x28, a.toByte, b.toByte⟩ (.adc a b) :=
  ⟨rfl, decodeRR_encodeRR 0x28 a b .adc⟩

/-- Settles O10: ADD is the sum with no carry in, whatever C was; both operands are read before Ra is written, so `a = b`
is no special case. -/
theorem addWritesSumAndCarry : Obligations.AddWritesSumAndCarry := by
  intro a b s
  exact ⟨spelled_add a b,
    aluEffect_of_exec_eq (exec_add a b s) (addOut_result_toNat _ _ false) (addOut_carry_iff _ _ false)⟩

/-- Settles O11: SUB is the difference with no borrow in; one 256 is enough to keep it exact. -/
theorem subWritesDifferenceAndBorrow : Obligations.SubWritesDifferenceAndBorrow := by
  intro a b s
  have hvalue : (subOut (s.reg a) (s.reg b) false).result.toNat =
      ((s.reg a).toNat + 256 - (s.reg b).toNat) % 256 := by
    have hb := (s.reg b).isLt
    have hborrow : flagNat false = 0 := rfl
    rw [subOut_result_toNat, hborrow]
    omega
  exact ⟨spelled_sub a b, aluEffect_of_exec_eq (exec_sub a b s) hvalue (subOut_carry_iff _ _ false)⟩

/-- Settles O13: the three share the end that clears C, and each result's number is the bitwise operation on the
operands' numbers. -/
theorem logicIsBitwiseAndClearsCarry : Obligations.LogicIsBitwiseAndClearsCarry := by
  intro a b s
  exact ⟨
    spelled_and a b, aluEffect_of_exec_eq (exec_and a b s) (BitVec.toNat_and _ _) (clearingOut_carry_iff _),
    spelled_or a b, aluEffect_of_exec_eq (exec_or a b s) (BitVec.toNat_or _ _) (clearingOut_carry_iff _),
    spelled_xor a b, aluEffect_of_exec_eq (exec_xor a b s) (BitVec.toNat_xor _ _) (clearingOut_carry_iff _)⟩

/-- Settles O15: ADC is ADD's sum with the old C, as 0 or 1, for its carry in. -/
theorem adcAddsTheCarry : Obligations.AdcAddsTheCarry := by
  intro a b s
  exact ⟨spelled_adc a b,
    aluEffect_of_exec_eq (exec_adc a b s) (addOut_result_toNat _ _ s.c) (addOut_carry_iff _ _ s.c)⟩

end Sys2Proof.Machine
end

section
/-! SUPPORT. The two bytes of an absolute address (spec/30_encoding.md R31, R49), and what a write of PC alone leaves as it
was (spec/43_jumps.md R81). -/

namespace Sys2Proof

/-- An address whose number is that of its two bytes is those bytes, the high one first (R31). -/
theorem eq_addr16OfBytes_of_toNat_eq {hi lo : Byte} {addr16 : Word}
    (h : addr16.toNat = hi.toNat * 256 + lo.toNat) : addr16 = addr16OfBytes hi lo :=
  BitVec.eq_of_toNat_eq (h.trans (append_toNat hi lo).symm)

/-- A format A instruction is written with its address high byte first (R31, R46). -/
@[simp] theorem encodeA_addr16OfBytes (opcode hi lo : Byte) :
    encodeA opcode (addr16OfBytes hi lo) = ⟨opcode, hi, lo⟩ := by
  rw [encodeA, addrHigh, addrLow, addr16OfBytes, highHalf_append, lowHalf_append]

end Sys2Proof

namespace Sys2Proof.Machine

/-- A write of PC changes nothing else of the machine. -/
theorem registerFrame_setPc (s : State) (v : Word) : RegisterFrame none s (s.setPc v) where
  fixed := ⟨rfl, rfl, rfl, rfl, rfl⟩
  sp := rfl
  halted := rfl
  devices := rfl
  memory := by intro addr; simp
  regs := by intro r _; simp

/-- The common end of the five jumps: an instruction that only writes PC has a jump's effect (R81). -/
theorem jumpEffect_of_exec_eq {i : Instr} {s : State} {v : Word} (hexec : exec i s = .next (s.setPc v)) :
    JumpEffect i s v :=
  ⟨s.setPc v, hexec, setPc_pc s v, ⟨rfl, rfl⟩, registerFrame_setPc s v⟩

section ConditionalJump

variable {i : Instr} {s : State} {taken : Bool} {target : Word}

/-- A jump whose condition holds leaves its target in PC (R81). -/
theorem jumpEffect_of_taken (hexec : exec i s = .next (s.setPc (s.jumpPc taken target))) (h : taken = true) :
    JumpEffect i s target :=
  jumpEffect_of_exec_eq (by rw [hexec, h, jumpPc_taken])

/-- A jump whose condition fails goes on to the next instruction (R81). -/
theorem jumpEffect_of_not_taken (hexec : exec i s = .next (s.setPc (s.jumpPc taken target))) (h : taken = false) :
    JumpEffect i s (s.pc + 3#16) :=
  jumpEffect_of_exec_eq (by rw [hexec, h, jumpPc_not_taken])

end ConditionalJump

end Sys2Proof.Machine
end

section
/-! Jumps: JMP, JZ, JNZ, JC and JNC (spec/43_jumps.md R82 to R86). -/

namespace Sys2Proof.Machine

theorem exec_jmp (addr16 : Word) (s : State) :
    exec (.jmp addr16) s = .next (s.setPc (s.jumpPc true addr16)) := rfl

theorem exec_jz (addr16 : Word) (s : State) :
    exec (.jz addr16) s = .next (s.setPc (s.jumpPc s.z addr16)) := rfl

theorem exec_jnz (addr16 : Word) (s : State) :
    exec (.jnz addr16) s = .next (s.setPc (s.jumpPc (!s.z) addr16)) := rfl

theorem exec_jc (addr16 : Word) (s : State) :
    exec (.jc addr16) s = .next (s.setPc (s.jumpPc s.c addr16)) := rfl

theorem exec_jnc (addr16 : Word) (s : State) :
    exec (.jnc addr16) s = .next (s.setPc (s.jumpPc (!s.c) addr16)) := rfl

/-- The bytes `30 hh ll` (R82). -/
theorem spelled_jmp (hi lo : Byte) : Spelled ⟨0x30, hi, lo⟩ (.jmp (addr16OfBytes hi lo)) :=
  ⟨encodeA_addr16OfBytes 0x30 hi lo, rfl⟩

/-- The bytes `31 hh ll` (R83). -/
theorem spelled_jz (hi lo : Byte) : Spelled ⟨0x31, hi, lo⟩ (.jz (addr16OfBytes hi lo)) :=
  ⟨encodeA_addr16OfBytes 0x31 hi lo, rfl⟩

/-- The bytes `32 hh ll` (R84). -/
theorem spelled_jnz (hi lo : Byte) : Spelled ⟨0x32, hi, lo⟩ (.jnz (addr16OfBytes hi lo)) :=
  ⟨encodeA_addr16OfBytes 0x32 hi lo, rfl⟩

/-- The bytes `33 hh ll` (R85). -/
theorem spelled_jc (hi lo : Byte) : Spelled ⟨0x33, hi, lo⟩ (.jc (addr16OfBytes hi lo)) :=
  ⟨encodeA_addr16OfBytes 0x33 hi lo, rfl⟩

/-- The bytes `34 hh ll` (R86). -/
theorem spelled_jnc (hi lo : Byte) : Spelled ⟨0x34, hi, lo⟩ (.jnc (addr16OfBytes hi lo)) :=
  ⟨encodeA_addr16OfBytes 0x34 hi lo, rfl⟩

/-- Settles O29: each jump only writes PC, by a condition on one flag, so both of its outcomes have a jump's effect;
JNZ and JNC test the negated flag. -/
theorem jumpsWritePcAndNothingElse : Obligations.JumpsWritePcAndNothingElse := by
  intro hi lo target s htarget
  obtain rfl := eq_addr16OfBytes_of_toNat_eq htarget
  refine ⟨⟨spelled_jmp hi lo, ?jmp⟩, ⟨spelled_jz hi lo, ?jz⟩, ⟨spelled_jnz hi lo, ?jnz⟩, ⟨spelled_jc hi lo, ?jc⟩,
    ⟨spelled_jnc hi lo, ?jnc⟩⟩
  case jmp => exact jumpEffect_of_taken (exec_jmp _ s) rfl
  case jz => exact ⟨jumpEffect_of_taken (exec_jz _ s), jumpEffect_of_not_taken (exec_jz _ s)⟩
  case jnz =>
    exact ⟨fun hz => jumpEffect_of_taken (exec_jnz _ s) (by rw [hz]; rfl),
      fun hz => jumpEffect_of_not_taken (exec_jnz _ s) (by rw [hz]; rfl)⟩
  case jc => exact ⟨jumpEffect_of_taken (exec_jc _ s), jumpEffect_of_not_taken (exec_jc _ s)⟩
  case jnc =>
    exact ⟨fun hc => jumpEffect_of_taken (exec_jnc _ s) (by rw [hc]; rfl),
      fun hc => jumpEffect_of_not_taken (exec_jnc _ s) (by rw [hc]; rfl)⟩

end Sys2Proof.Machine
end

section
/-! SUPPORT. Decoding and encoding by format (spec/30_encoding.md R46 to R50): what each format reads back of what it
writes, and which register bytes it refuses. -/

namespace Sys2Proof

/-- The register of an encoded format R instruction is read back (R46). -/
@[simp] theorem decodeR_encodeR (opcode : Byte) (a : Reg) (mk : Reg → Instr) :
    decodeR (encodeR opcode a) mk = .ok (mk a) := by
  simp [decodeR, encodeR]

/-- The address of an encoded format A instruction is read back (R31, R49). -/
@[simp] theorem decodeA_encodeA (opcode : Byte) (addr16 : Word) (mk : Word → Instr) :
    decodeA (encodeA opcode addr16) mk = .ok (mk addr16) := by
  simp [decodeA, encodeA, addr16OfBytes, addrHigh, addrLow, append_halves]

/-- A register byte names the register that is written as it, and no other (R47). -/
theorem Reg.ofByte?_eq_some_iff (b : Byte) (r : Reg) : Reg.ofByte? b = some r ↔ b = r.toByte := by
  constructor
  · intro h
    unfold Reg.ofByte? at h
    split at h <;> cases h <;> rfl
  · rintro rfl
    exact Reg.ofByte?_toByte r

theorem Reg.toByte_toNat_le (r : Reg) : r.toByte.toNat ≤ 7 := by
  cases r <;> decide

/-- The bytes 0 to 7 name a register (R47). -/
theorem Reg.exists_toByte_eq {b : Byte} (h : b.toNat ≤ 7) : ∃ r : Reg, r.toByte = b := by
  have hb : b = BitVec.ofNat 8 b.toNat := by simp
  generalize b.toNat = n at h hb
  subst hb
  interval_cases n
  exacts [⟨.r0, rfl⟩, ⟨.r1, rfl⟩, ⟨.r2, rfl⟩, ⟨.r3, rfl⟩, ⟨.r4, rfl⟩, ⟨.r5, rfl⟩, ⟨.r6, rfl⟩, ⟨.r7, rfl⟩]

/-- The bytes 8 to 255 name none (R47, R96). -/
theorem Reg.ofByte?_eq_none {b : Byte} (h : 7 < b.toNat) : Reg.ofByte? b = none := by
  refine Option.eq_none_iff_forall_ne_some.mpr fun r hr => ?_
  obtain rfl := (Reg.ofByte?_eq_some_iff b r).1 hr
  exact absurd r.toByte_toNat_le (by omega)

/-- A register byte of 8 to 255 is reported, whatever is decoded with it (R96). -/
theorem withReg_eq_error {b : Byte} (h : 7 < b.toNat) (k : Reg → Except DecodeError Instr) :
    withReg b k = .error (.invalidRegister b) := by
  rw [withReg, Reg.ofByte?_eq_none h]

/-- What decodes after a register byte decoded with the register of that byte (R47). -/
theorem withReg_eq_ok_iff (b : Byte) (k : Reg → Except DecodeError Instr) (i : Instr) :
    withReg b k = .ok i ↔ ∃ r : Reg, b = r.toByte ∧ k r = .ok i := by
  constructor
  · intro h
    unfold withReg at h
    split at h
    next r hr => exact ⟨r, (Reg.ofByte?_eq_some_iff b r).1 hr, h⟩
    next => cases h
  · rintro ⟨r, rfl, h⟩
    rwa [withReg_toByte]

/-- An unknown opcode is reported after a register byte only where the continuation reports it. -/
theorem withReg_ne_unknownOpcode {b op : Byte} {k : Reg → Except DecodeError Instr}
    (hk : ∀ r, k r ≠ .error (.unknownOpcode op)) : withReg b k ≠ .error (.unknownOpcode op) := by
  unfold withReg
  split
  next r _ => exact hk r
  next => simp

/-- Settles O40: an instruction's opcode picks its row, and its format reads back the operands it wrote. -/
theorem decodeInvertsEncode : Obligations.DecodeInvertsEncode := by
  intro i
  cases i with
  | loadi a imm8 => exact withReg_toByte a fun r => .ok (.loadi r imm8)
  | load a => exact decodeR_encodeR 0x11 a .load
  | store a => exact decodeR_encodeR 0x12 a .store
  | mov a b => exact decodeRR_encodeRR 0x13 a b .mov
  | add a b => exact decodeRR_encodeRR 0x20 a b .add
  | sub a b => exact decodeRR_encodeRR 0x21 a b .sub
  | inc a => exact decodeR_encodeR 0x22 a .inc
  | dec a => exact decodeR_encodeR 0x23 a .dec
  | and a b => exact decodeRR_encodeRR 0x24 a b .and
  | or a b => exact decodeRR_encodeRR 0x25 a b .or
  | xor a b => exact decodeRR_encodeRR 0x26 a b .xor
  | cmp a b => exact decodeRR_encodeRR 0x27 a b .cmp
  | adc a b => exact decodeRR_encodeRR 0x28 a b .adc
  | shl a => exact decodeR_encodeR 0x29 a .shl
  | shr a => exact decodeR_encodeR 0x2A a .shr
  | sbc a b => exact decodeRR_encodeRR 0x2B a b .sbc
  | push a => exact decodeR_encodeR 0x2C a .push
  | pop a => exact decodeR_encodeR 0x2D a .pop
  | jmp addr16 => exact decodeA_encodeA 0x30 addr16 .jmp
  | jz addr16 => exact decodeA_encodeA 0x31 addr16 .jz
  | jnz addr16 => exact decodeA_encodeA 0x32 addr16 .jnz
  | jc addr16 => exact decodeA_encodeA 0x33 addr16 .jc
  | jnc addr16 => exact decodeA_encodeA 0x34 addr16 .jnc
  | call addr16 => exact decodeA_encodeA 0x40 addr16 .call
  | ret => rfl
  | halt => rfl

end Sys2Proof
end

section
/-! The opcode map (spec/30_encoding.md R50 to R53): each row's bytes decode by its format to its own instructions, and
the facts about the decoder that follow from that alone. -/

namespace Sys2Proof

open Sys2Proof.Machine

/-- How the bytes of one row decode: `mk` makes the row's instruction from the operands of its format, and the operands
are written where the format reads them (R46, R51). -/
inductive RowDecodes (row : OpcodeRow) : Prop
  | ri (mk : Reg → Byte → Instr) (format : row.format = .ri)
      (decodes : ∀ x y, decode ⟨opcodeOfRow row, x, y⟩ = withReg x fun a => .ok (mk a y))
      (named : ∀ a y, (mk a y).mnemonic = row.mnemonic)
      (encodes : ∀ a y, encode (mk a y) = ⟨opcodeOfRow row, a.toByte, y⟩)
  | r (mk : Reg → Instr) (format : row.format = .r)
      (decodes : ∀ x y, decode ⟨opcodeOfRow row, x, y⟩ = withReg x fun a => .ok (mk a))
      (named : ∀ a, (mk a).mnemonic = row.mnemonic)
      (encodes : ∀ a, encode (mk a) = ⟨opcodeOfRow row, a.toByte, 0⟩)
  | rr (mk : Reg → Reg → Instr) (format : row.format = .rr)
      (decodes : ∀ x y, decode ⟨opcodeOfRow row, x, y⟩ = withReg x fun a => withReg y fun b => .ok (mk a b))
      (named : ∀ a b, (mk a b).mnemonic = row.mnemonic)
      (encodes : ∀ a b, encode (mk a b) = ⟨opcodeOfRow row, a.toByte, b.toByte⟩)
  | a (mk : Word → Instr) (format : row.format = .a)
      (decodes : ∀ x y, decode ⟨opcodeOfRow row, x, y⟩ = .ok (mk (addr16OfBytes x y)))
      (named : ∀ w, (mk w).mnemonic = row.mnemonic)
      (encodes : ∀ w, encode (mk w) = encodeA (opcodeOfRow row) w)
  | n (i : Instr) (format : row.format = .n)
      (decodes : ∀ x y, decode ⟨opcodeOfRow row, x, y⟩ = .ok i)
      (named : i.mnemonic = row.mnemonic)
      (encodes : encode i = ⟨opcodeOfRow row, 0, 0⟩)

/-- Every row of R51 decodes by its format: the one place that goes through the decoder row by row. -/
theorem rowDecodes_of_mem {row : OpcodeRow} (h : row ∈ opcodeTable) : RowDecodes row := by
  fin_cases h
  · exact .ri .loadi rfl (fun _ _ => rfl) (fun _ _ => rfl) fun _ _ => rfl
  · exact .r .load rfl (fun _ _ => rfl) (fun _ => rfl) fun _ => rfl
  · exact .r .store rfl (fun _ _ => rfl) (fun _ => rfl) fun _ => rfl
  · exact .rr .mov rfl (fun _ _ => rfl) (fun _ _ => rfl) fun _ _ => rfl
  · exact .rr .add rfl (fun _ _ => rfl) (fun _ _ => rfl) fun _ _ => rfl
  · exact .rr .sub rfl (fun _ _ => rfl) (fun _ _ => rfl) fun _ _ => rfl
  · exact .r .inc rfl (fun _ _ => rfl) (fun _ => rfl) fun _ => rfl
  · exact .r .dec rfl (fun _ _ => rfl) (fun _ => rfl) fun _ => rfl
  · exact .rr .and rfl (fun _ _ => rfl) (fun _ _ => rfl) fun _ _ => rfl
  · exact .rr .or rfl (fun _ _ => rfl) (fun _ _ => rfl) fun _ _ => rfl
  · exact .rr .xor rfl (fun _ _ => rfl) (fun _ _ => rfl) fun _ _ => rfl
  · exact .rr .cmp rfl (fun _ _ => rfl) (fun _ _ => rfl) fun _ _ => rfl
  · exact .rr .adc rfl (fun _ _ => rfl) (fun _ _ => rfl) fun _ _ => rfl
  · exact .r .shl rfl (fun _ _ => rfl) (fun _ => rfl) fun _ => rfl
  · exact .r .shr rfl (fun _ _ => rfl) (fun _ => rfl) fun _ => rfl
  · exact .rr .sbc rfl (fun _ _ => rfl) (fun _ _ => rfl) fun _ _ => rfl
  · exact .r .push rfl (fun _ _ => rfl) (fun _ => rfl) fun _ => rfl
  · exact .r .pop rfl (fun _ _ => rfl) (fun _ => rfl) fun _ => rfl
  · exact .a .jmp rfl (fun _ _ => rfl) (fun _ => rfl) fun _ => rfl
  · exact .a .jz rfl (fun _ _ => rfl) (fun _ => rfl) fun _ => rfl
  · exact .a .jnz rfl (fun _ _ => rfl) (fun _ => rfl) fun _ => rfl
  · exact .a .jc rfl (fun _ _ => rfl) (fun _ => rfl) fun _ => rfl
  · exact .a .jnc rfl (fun _ _ => rfl) (fun _ => rfl) fun _ => rfl
  · exact .a .call rfl (fun _ _ => rfl) (fun _ => rfl) fun _ => rfl
  · exact .n .ret rfl (fun _ _ => rfl) rfl rfl
  · exact .n .halt rfl (fun _ _ => rfl) rfl rfl

/-- An opcode of no row is reported before any operand (R52, R53). -/
theorem decode_of_no_row {b : InstrBytes} (h : ∀ row ∈ opcodeTable, opcodeOfRow row ≠ b.opcode) :
    decode b = .error (.unknownOpcode b.opcode) := by
  obtain ⟨op, x, y⟩ := b
  simp only [opcodeTable, List.forall_mem_cons, opcodeOfRow] at h
  unfold decode
  split <;> simp_all

end Sys2Proof
end

section
/-! The opcode map (spec/30_encoding.md R50 to R53): what follows from how each row decodes. -/

namespace Sys2Proof

open Sys2Proof.Machine

/-- The bits of arg1 that a format's mask keeps: in a register byte, those that must be 0 (R47, R51). -/
def Format.mask1 : Format → Byte
  | .ri => 0xF8
  | .r => 0xF8
  | .rr => 0xF8
  | .a => 0
  | .n => 0

/-- The bits of arg2 that a format's mask keeps (R51). -/
def Format.mask2 : Format → Byte
  | .ri => 0
  | .r => 0
  | .rr => 0xF8
  | .a => 0
  | .n => 0

/-- A row's pattern is its opcode, and its mask is that of its format (R51). -/
theorem row_pattern_mask : ∀ row ∈ opcodeTable,
    row.pattern = opcodeOfRow row ++ 0#8 ++ 0#8 ∧ row.mask = 0xFF#8 ++ row.format.mask1 ++ row.format.mask2 := by
  decide

/-- Each mnemonic of R51 is of one row. -/
theorem row_eq_of_mnemonic_eq {row row' : OpcodeRow} (h : row ∈ opcodeTable) (h' : row' ∈ opcodeTable)
    (hm : row.mnemonic = row'.mnemonic) : row = row' :=
  List.inj_on_of_nodup_map (by decide) h h' hm

/-- Two concatenations of the same widths are equal part by part. -/
theorem append_eq_append_iff {n m : Nat} (a b : BitVec n) (c d : BitVec m) : a ++ c = b ++ d ↔ a = b ∧ c = d := by
  constructor
  · intro h
    have hc : c = d := by
      have := congrArg (BitVec.setWidth m) h
      rwa [BitVec.setWidth_append_eq_right, BitVec.setWidth_append_eq_right] at this
    have ha : a = b := by
      have := congrArg (BitVec.extractLsb' m n) h
      rwa [BitVec.extractLsb'_append_eq_left, BitVec.extractLsb'_append_eq_left] at this
    exact ⟨ha, hc⟩
  · rintro ⟨rfl, rfl⟩
    rfl

/-- The mask test of a row, byte by byte (R51). -/
theorem spells_iff {row : OpcodeRow} (h : row ∈ opcodeTable) (b : InstrBytes) :
    b.spells row = true ↔
      opcodeOfRow row = b.opcode ∧ b.arg1 &&& row.format.mask1 = 0 ∧ b.arg2 &&& row.format.mask2 = 0 := by
  obtain ⟨hpattern, hmask⟩ := row_pattern_mask row h
  rw [InstrBytes.spells, InstrBytes.word, beq_iff_eq, hpattern, hmask, BitVec.and_append, BitVec.and_append,
    append_eq_append_iff, append_eq_append_iff, and_assoc, show (0xFF#8) = BitVec.allOnes 8 from rfl,
    BitVec.and_allOnes, eq_comm (a := b.opcode)]
  rfl

/-- A byte passes the mask of a register field exactly when it names a register (R47, R51). -/
theorem and_regMask_eq_zero_iff (x : Byte) : x &&& 0xF8 = 0 ↔ ∃ r : Reg, x = r.toByte := by
  constructor
  · intro h
    have hx : x.toNat ≤ 7 := by
      revert h
      revert x
      decide
    obtain ⟨r, hr⟩ := Reg.exists_toByte_eq hx
    exact ⟨r, hr.symm⟩
  · rintro ⟨r, rfl⟩
    exact Laws.EncodingInTable.toByte_and r

namespace RowDecodes

variable {row : OpcodeRow} (h : RowDecodes row) (x y : Byte)
include h

/-- The bytes of a row decode exactly when their register bytes pass the row's mask. -/
theorem exists_ok_iff : (∃ i, decode ⟨opcodeOfRow row, x, y⟩ = .ok i) ↔
    x &&& row.format.mask1 = 0 ∧ y &&& row.format.mask2 = 0 := by
  cases h with
  | ri mk format decodes | r mk format decodes | rr mk format decodes =>
    simp [decodes, format, Format.mask1, Format.mask2, withReg_eq_ok_iff, ← and_regMask_eq_zero_iff]
  | a mk format decodes | n i format decodes => simp [decodes, format, Format.mask1, Format.mask2]

/-- What the bytes of a row decode to is the row's instruction. -/
theorem mnemonic_of_ok {i : Instr} (hi : decode ⟨opcodeOfRow row, x, y⟩ = .ok i) : i.mnemonic = row.mnemonic := by
  cases h with
  | ri mk _ decodes named =>
    obtain ⟨a, -, ha⟩ := (withReg_eq_ok_iff _ _ _).1 (decodes x y ▸ hi)
    cases ha
    exact named a y
  | r mk _ decodes named =>
    obtain ⟨a, -, ha⟩ := (withReg_eq_ok_iff _ _ _).1 (decodes x y ▸ hi)
    cases ha
    exact named a
  | rr mk _ decodes named =>
    obtain ⟨a, -, ha⟩ := (withReg_eq_ok_iff _ _ _).1 (decodes x y ▸ hi)
    obtain ⟨b, -, hb⟩ := (withReg_eq_ok_iff _ _ _).1 ha
    cases hb
    exact named a b
  | a mk _ decodes named =>
    cases (decodes x y).symm.trans hi
    exact named _
  | n i _ decodes named =>
    cases (decodes x y).symm.trans hi
    exact named

/-- The opcode of a row is never reported unknown. -/
theorem ne_unknownOpcode (op : Byte) : decode ⟨opcodeOfRow row, x, y⟩ ≠ .error (.unknownOpcode op) := by
  cases h with
  | ri mk _ decodes => exact decodes x y ▸ withReg_ne_unknownOpcode fun _ => nofun
  | r mk _ decodes => exact decodes x y ▸ withReg_ne_unknownOpcode fun _ => nofun
  | rr mk _ decodes => exact decodes x y ▸ withReg_ne_unknownOpcode fun _ => withReg_ne_unknownOpcode fun _ => nofun
  | a mk _ decodes => exact decodes x y ▸ nofun
  | n i _ decodes => exact decodes x y ▸ nofun

end RowDecodes

/-- What decodes is an instruction of the row that has the opcode (R52). -/
theorem exists_row_of_decode_ok {b : InstrBytes} {i : Instr} (h : decode b = .ok i) :
    ∃ row ∈ opcodeTable, opcodeOfRow row = b.opcode ∧ i.mnemonic = row.mnemonic := by
  by_cases hrow : ∀ row ∈ opcodeTable, opcodeOfRow row ≠ b.opcode
  · cases (decode_of_no_row hrow).symm.trans h
  · push Not at hrow
    obtain ⟨row, hmem, hop⟩ := hrow
    obtain ⟨op, x, y⟩ := b
    subst hop
    exact ⟨row, hmem, rfl, (rowDecodes_of_mem hmem).mnemonic_of_ok x y h⟩

/-- An opcode is unknown exactly when it is of no row (R52, R53). -/
theorem decode_eq_unknownOpcode_iff (b : InstrBytes) :
    decode b = .error (.unknownOpcode b.opcode) ↔ ∀ row ∈ opcodeTable, opcodeOfRow row ≠ b.opcode := by
  refine ⟨fun h row hmem hop => ?_, decode_of_no_row⟩
  obtain ⟨op, x, y⟩ := b
  subst hop
  exact (rowDecodes_of_mem hmem).ne_unknownOpcode x y _ h

/-- Settles O41: both sides ask for the row's opcode and for register bytes that the row's mask passes; an instruction of
the row's mnemonic comes from no other row. -/
theorem decodeAgreesWithMaskAndMatch : Obligations.DecodeAgreesWithMaskAndMatch := by
  intro row hmem b
  have hrow := rowDecodes_of_mem hmem
  obtain ⟨op, x, y⟩ := b
  rw [spells_iff hmem]
  constructor
  · rintro ⟨hop, hregs⟩
    subst hop
    obtain ⟨i, hi⟩ := (hrow.exists_ok_iff x y).2 hregs
    exact ⟨i, hi, hrow.mnemonic_of_ok x y hi⟩
  · rintro ⟨i, hi, hname⟩
    obtain ⟨row', hmem', hop, hname'⟩ := exists_row_of_decode_ok hi
    obtain rfl := row_eq_of_mnemonic_eq hmem' hmem (hname'.symm.trans hname)
    subst hop
    exact ⟨rfl, (hrow.exists_ok_iff x y).1 ⟨i, hi⟩⟩

/-- Settles O42: by the row's format, each register byte that the format reads is 0 to 7 and names a register, or is the
one reported. -/
theorem decodeFollowsTheProcedure : Obligations.DecodeFollowsTheProcedure := by
  intro b
  refine ⟨decode_of_no_row, fun row hmem hop => ?_⟩
  obtain ⟨op, x, y⟩ := b
  subst hop
  cases rowDecodes_of_mem hmem with
  | ri mk format decodes named encodes =>
    simp only [format, decodes]
    refine ⟨fun _ hx => withReg_eq_error hx _, nofun, fun hx _ => ?_⟩
    obtain ⟨a, rfl⟩ := Reg.exists_toByte_eq (hx (by decide))
    exact ⟨mk a y, withReg_toByte a _, named a y, encodes a y⟩
  | r mk format decodes named encodes =>
    simp only [format, decodes]
    refine ⟨fun _ hx => withReg_eq_error hx _, nofun, fun hx _ => ?_⟩
    obtain ⟨a, rfl⟩ := Reg.exists_toByte_eq (hx (by decide))
    exact ⟨mk a, withReg_toByte a _, named a, encodes a⟩
  | rr mk format decodes named encodes =>
    simp only [format, decodes]
    refine ⟨fun _ hx => withReg_eq_error hx _, fun _ hx hy => ?_, fun hx hy => ?_⟩
    · obtain ⟨a, rfl⟩ := Reg.exists_toByte_eq hx
      exact (withReg_toByte a _).trans (withReg_eq_error hy _)
    · obtain ⟨a, rfl⟩ := Reg.exists_toByte_eq (hx (by decide))
      obtain ⟨b, rfl⟩ := Reg.exists_toByte_eq (hy trivial)
      exact ⟨mk a b, (withReg_toByte a _).trans (withReg_toByte b _), named a b, encodes a b⟩
  | a mk format decodes named encodes =>
    simp only [format, decodes]
    refine ⟨fun hf => absurd hf (by decide), nofun, fun _ _ => ?_⟩
    exact ⟨mk (addr16OfBytes x y), rfl, named _, (encodes _).trans (encodeA_addr16OfBytes _ x y)⟩
  | n i format decodes named encodes =>
    simp only [format, decodes]
    exact ⟨fun hf => absurd hf (by decide), nofun, fun _ _ => ⟨i, rfl, named, encodes⟩⟩

/-- Settles O43: the ranges are what the opcodes of the 26 rows leave of the 256 bytes. -/
theorem unknownOpcodesAreTheListedRanges : Obligations.UnknownOpcodesAreTheListedRanges := by
  intro b
  rw [decode_eq_unknownOpcode_iff]
  generalize b.opcode = op
  revert op
  decide

/-- Settles O44: the decoding of a format R row does not speak of arg2, that of a format N row of neither byte. -/
theorem ignoredBytesDoNotMatter : Obligations.IgnoredBytesDoNotMatter := by
  intro x y b row hmem hop
  obtain ⟨op, x', y'⟩ := b
  subst hop
  cases rowDecodes_of_mem hmem with
  | r _ format decodes =>
    exact ⟨fun _ => (decodes x' x).trans (decodes x' y').symm, fun h => absurd (format.symm.trans h) nofun⟩
  | ri _ format | rr _ format | a _ format =>
    exact ⟨fun h => absurd (format.symm.trans h) nofun, fun h => absurd (format.symm.trans h) nofun⟩
  | n _ format decodes =>
    exact ⟨fun h => absurd (format.symm.trans h) nofun, fun _ => (decodes x y).trans (decodes x' y').symm⟩

/-- Settles O45: eight fixed words, each evaluated by the decoder. -/
theorem sampleWordsDecode : Obligations.SampleWordsDecode :=
  ⟨rfl, rfl, rfl, rfl, rfl, rfl, rfl, rfl⟩

end Sys2Proof
end

section
/-! The image of a program in memory (spec/30_encoding.md R45, R57). -/

namespace Sys2Proof.Machine

/-- The image lists the three bytes of instruction `k` at `addr + 3 * k` (R45). -/
theorem lookup_programImage {is : List Instr} {k : Nat} {i : Instr} (addr : Nat) (h : is[k]? = some i) :
    Memory.lookup (programImage addr is) (addr + 3 * k) = some (encode i).opcode ∧
    Memory.lookup (programImage addr is) (addr + 3 * k + 1) = some (encode i).arg1 ∧
    Memory.lookup (programImage addr is) (addr + 3 * k + 2) = some (encode i).arg2 := by
  induction is generalizing addr k with
  | nil => cases h
  | cons j rest ih =>
    cases k with
    | zero =>
      cases h
      simp [programImage, Memory.lookup]
    | succ k =>
      have hskip : ∀ a, addr + 3 ≤ a →
          Memory.lookup (programImage addr (j :: rest)) a = Memory.lookup (programImage (addr + 3) rest) a := by
        intro a ha
        simp [programImage, Memory.lookup, show addr ≠ a by omega, show addr + 1 ≠ a by omega,
          show addr + 2 ≠ a by omega]
      rw [hskip _ (by omega), hskip _ (by omega), hskip _ (by omega),
        show addr + 3 * (k + 1) = addr + 3 + 3 * k by omega]
      exact ih (addr + 3) h

/-- A launch reads as its MEM0 says where MEM0 defines a byte of storage below the device registers (R20, R23). -/
theorem readStorage_launch {config : Config} {mem0 : List Host.Cell} {inputs : Inputs} {schedule routine : List Turn}
    {launchId : Nat} {addr : Word} {v : Byte} (haddr : addr.toNat < 0xBF00)
    (h : Memory.lookup mem0 addr.toNat = some v) :
    (State.launch config mem0 inputs schedule routine launchId).readStorage addr = v := by
  simp [State.readStorage, State.launch, lookup_ofCells, haddr, h]

/-- Settles O57: the image lists the bytes, and the launch keeps what it lists below 0x2000. -/
theorem programImageHoldsEveryInstruction : Obligations.ProgramImageHoldsEveryInstruction := by
  intro is k i addr config inputs schedule routine launchId hfits hk haddr
  refine ⟨wf_ofCells _, ?_⟩
  have hlt : k < is.length := (List.getElem?_eq_some_iff.1 hk).1
  have horigin : programOrigin = 0x0010 := rfl
  obtain ⟨hopcode, harg1, harg2⟩ := lookup_programImage programOrigin hk
  have haddr1 : (addr + 1#16).toNat = programOrigin + 3 * k + 1 := by
    rw [BitVec.toNat_add, haddr, BitVec.toNat_ofNat]
    omega
  have haddr2 : (addr + 2#16).toNat = programOrigin + 3 * k + 2 := by
    rw [BitVec.toNat_add, haddr, BitVec.toNat_ofNat]
    omega
  rw [readStorage_launch (by omega) (haddr ▸ hopcode), readStorage_launch (by omega) (haddr1 ▸ harg1),
    readStorage_launch (by omega) (haddr2 ▸ harg2)]

end Sys2Proof.Machine
end

section
/-! SUPPORT. LOAD and STORE by the range of their address (spec/20_memory.md R26, R28, spec/40_data_movement.md R61, R62):
each outcome as one equation, and what a write of one byte leaves as it was. -/

namespace Sys2Proof.Machine

theorem exec_load (a : Reg) (s : State) :
    exec (.load a) s = advanceOrFault ((memLoad s s.addrPair).map fun vs => vs.2.setReg a vs.1) := rfl

theorem exec_store (a : Reg) (s : State) :
    exec (.store a) s = advanceOrFault (memStore s s.addrPair (s.reg a)) := rfl

/-- `ADDR` as a number (R11, R32). -/
theorem addrPair_toNat (s : State) : s.addrPair.toNat = (s.reg .r6).toNat * 256 + (s.reg .r7).toNat :=
  append_toNat (s.reg .r6) (s.reg .r7)

/-- `ADDR` is formed from R6 and R7 alone. -/
theorem addrPair_congr {s t : State} (h6 : t.reg .r6 = s.reg .r6) (h7 : t.reg .r7 = s.reg .r7) :
    t.addrPair = s.addrPair := by
  rw [State.addrPair, State.addrPair, h6, h7]

/-! ### Ranges -/

theorem regionOf_extended_iff (addr : Word) : regionOf addr = .extended ↔ 0x4000 ≤ addr.toNat ∧ addr.toNat ≤ 0x7FFF := by
  rcases regionOf_cases addr with h | h | h | h | h | h | h <;> simp [h.1] <;> omega

theorem deviceRegAt_keysPressed_iff (addr : Word) : deviceRegAt addr = some .keysPressed ↔ addr = 0xBF01#16 := by
  constructor
  · intro h
    unfold deviceRegAt at h
    split at h
    case h_2 => rfl
    all_goals cases h
  · rintro rfl
    rfl

/-- LOAD's storage lies outside the device registers, and in the extended range only where that is RAM (R28, D9). -/
theorem LoadableStorage.region {s : State} {addr : Word} (h : LoadableStorage s addr) :
    regionOf addr ≠ .mmio ∧ (regionOf addr = .extended → s.config.extRegionIsRam = true) := by
  rw [Ne, regionOf_mmio_iff, regionOf_extended_iff]
  rcases h with h | ⟨h, hram⟩ | h | h
  · exact ⟨by omega, by omega⟩
  · exact ⟨by omega, fun _ => hram⟩
  · exact ⟨by omega, by omega⟩
  · exact ⟨by omega, by omega⟩

/-- What STORE may write, LOAD may read (R28). -/
theorem StorableStorage.loadable {s : State} {addr : Word} (h : StorableStorage s addr) : LoadableStorage s addr := by
  rcases h with h | ⟨-, h, hram⟩ | h | h
  · exact .inl h.2
  · exact .inr (.inl ⟨h, hram⟩)
  · exact .inr (.inr (.inl h))
  · exact .inr (.inr (.inr h))

/-- STORE's storage lies above the code segment (R38). -/
theorem StorableStorage.above_code {s : State} {addr : Word} (h : StorableStorage s addr) : 0x2000 ≤ addr.toNat := by
  rcases h with h | h | h | h <;> omega

/-- No device register is storage (R20). -/
theorem LoadableStorage.not_mem_deviceAddrs {s : State} {addr : Word} (h : LoadableStorage s addr) :
    addr ∉ deviceAddrs :=
  fun hmem => h.region.1 (mmio_of_mem_deviceAddrs hmem)

/-! ### The outcomes of LOAD and STORE -/

/-- Everything a LOAD can answer (R61). -/
theorem exec_load_cases (a : Reg) (s : State) :
    (LoadableStorage s s.addrPair ∧ exec (.load a) s = .next (s.setReg a (s.readStorage s.addrPair)).advance) ∨
    (∃ d, deviceRegAt s.addrPair = some d ∧
      exec (.load a) s = .next ((s.afterDeviceRead d).setReg a (s.deviceValue d)).advance) ∨
    (regionOf s.addrPair = .mmio ∧ s.addrPair ∉ deviceAddrs ∧
      exec (.load a) s = .fault (.undefinedMMIOAccess .load s.addrPair none)) ∨
    (regionOf s.addrPair = .extended ∧ s.config.extRegionIsRam = false ∧
      exec (.load a) s = .fault (.invalidMemoryAccess .load s.addrPair)) := by
  rw [exec_load]
  rcases memLoad_eq s s.addrPair with ⟨h, he⟩ | ⟨d, hd, -, he⟩ | ⟨hr, hn, he⟩ | ⟨hr, hram, he⟩ <;> rw [he]
  · exact .inl ⟨h, rfl⟩
  · exact .inr (.inl ⟨d, hd, rfl⟩)
  · exact .inr (.inr (.inl ⟨hr, hn, rfl⟩))
  · exact .inr (.inr (.inr ⟨hr, hram, rfl⟩))

theorem exec_load_of_loadable {s : State} (a : Reg) (h : LoadableStorage s s.addrPair) :
    exec (.load a) s = .next (s.setReg a (s.readStorage s.addrPair)).advance := by
  obtain ⟨hmmio, hext⟩ := h.region
  rcases exec_load_cases a s with ⟨-, he⟩ | ⟨d, hd, -⟩ | ⟨hr, -⟩ | ⟨hr, hram, -⟩
  · exact he
  · exact absurd ((deviceRegAt_isSome_iff _).1 (Option.isSome_of_mem hd)) h.not_mem_deviceAddrs
  · exact absurd hr hmmio
  · exact absurd (hext hr) (by simp [hram])

theorem exec_load_of_device {s : State} {d : DeviceReg} (a : Reg) (h : deviceRegAt s.addrPair = some d) :
    exec (.load a) s = .next ((s.afterDeviceRead d).setReg a (s.deviceValue d)).advance := by
  have hmem : s.addrPair ∈ deviceAddrs := (deviceRegAt_isSome_iff _).1 (Option.isSome_of_mem h)
  rcases exec_load_cases a s with ⟨hl, -⟩ | ⟨d', hd', he⟩ | ⟨-, hn, -⟩ | ⟨hr, -⟩
  · exact absurd hmem hl.not_mem_deviceAddrs
  · cases h.symm.trans hd'
    exact he
  · exact absurd hmem hn
  · cases hr.symm.trans (mmio_of_mem_deviceAddrs hmem)

/-- Everything a STORE can answer (R62). -/
theorem exec_store_cases (a : Reg) (s : State) :
    (StorableStorage s s.addrPair ∧ exec (.store a) s = .next (s.writeStorage s.addrPair (s.reg a)).advance) ∨
    (s.addrPair = 0xBF23#16 ∧ s.reg a = 1#8 ∧
      exec (.store a) s = .next (s.setDevices { s.devices with vsync := 1#8 }).advance) ∨
    (regionOf s.addrPair = .mmio ∧ ¬ (s.addrPair = 0xBF23#16 ∧ s.reg a = 1#8) ∧
      exec (.store a) s = .fault (.undefinedMMIOAccess .store s.addrPair (some (s.reg a)))) ∨
    ((s.addrPair.toNat ≤ 0x1FFF ∨ (regionOf s.addrPair = .extended ∧ s.config.extRegionIsRam = false)) ∧
      exec (.store a) s = .fault (.invalidMemoryAccess .store s.addrPair)) := by
  rw [exec_store]
  rcases memStore_eq s s.addrPair (s.reg a) with
    ⟨h, -, he⟩ | ⟨haddr, hv, he⟩ | ⟨hr, hn, he⟩ | ⟨hlow, he⟩ | ⟨hr, hram, he⟩ <;> rw [he]
  · exact .inl ⟨h, rfl⟩
  · exact .inr (.inl ⟨haddr, hv, rfl⟩)
  · exact .inr (.inr (.inl ⟨hr, hn, rfl⟩))
  · exact .inr (.inr (.inr ⟨.inl hlow, rfl⟩))
  · exact .inr (.inr (.inr ⟨.inr ⟨hr, hram⟩, rfl⟩))

theorem exec_store_of_storable {s : State} (a : Reg) (h : StorableStorage s s.addrPair) :
    exec (.store a) s = .next (s.writeStorage s.addrPair (s.reg a)).advance := by
  obtain ⟨hmmio, hext⟩ := h.loadable.region
  rcases exec_store_cases a s with ⟨-, he⟩ | ⟨haddr, -⟩ | ⟨hr, -⟩ | ⟨hlow | ⟨hr, hram⟩, -⟩
  · exact he
  · exact absurd (haddr ▸ rfl : regionOf s.addrPair = .mmio) hmmio
  · exact absurd hr hmmio
  · exact absurd h.above_code (by omega)
  · exact absurd (hext hr) (by simp [hram])

theorem exec_store_vsync {s : State} {a : Reg} (haddr : s.addrPair = 0xBF23#16) (hv : s.reg a = 1#8) :
    exec (.store a) s = .next (s.setDevices { s.devices with vsync := 1#8 }).advance := by
  have hnat : s.addrPair.toNat = 0xBF23 := congrArg BitVec.toNat haddr
  have hmmio : regionOf s.addrPair = .mmio := haddr ▸ rfl
  rcases exec_store_cases a s with ⟨h, -⟩ | ⟨-, -, he⟩ | ⟨-, hn, -⟩ | ⟨hlow | ⟨hr, -⟩, -⟩
  · exact absurd hmmio h.loadable.region.1
  · exact he
  · exact absurd ⟨haddr, hv⟩ hn
  · omega
  · cases hr.symm.trans hmmio

/-! ### What a write leaves as it was -/

/-- One byte written leaves every other byte as it was (R30). -/
theorem sameMemoryOutside_writeStorage (s : State) (addr : Word) (v : Byte) :
    SameMemoryOutside [addr] s (s.writeStorage addr v) :=
  fun b hb => readStorage_writeStorage_other s addr b v (by simpa using hb)

/-- A machine with the same registers has its registers as before. -/
theorem sameRegsBut_of_regs_eq {s t : State} (h : t.regs = s.regs) (written : Option Reg) : SameRegsBut written s t :=
  fun r _ => congrArg (Regs.get · r) h

/-- Every byte reads as before where memory and launch are the same. -/
theorem sameMemory_of_mem_eq {s t : State} (hmem : t.mem = s.mem) (hlaunch : t.launchId = s.launchId) : SameMemory s t :=
  readStorage_congr s t hmem hlaunch

end Sys2Proof.Machine
end

section
/-! Data movement: LOAD and STORE (spec/40_data_movement.md R61, R62, spec/60_exceptions.md R97, R98, R106 to R114). -/

namespace Sys2Proof.Machine

/-- Settles O3: a LOAD from storage ends in one register write, as LOADI does. -/
theorem loadReadsStorage : Obligations.LoadReadsStorage := by
  intro a s h
  obtain ⟨hreg, hflags, hpc, hframe⟩ := setReg_advance_effect s a (s.readStorage s.addrPair)
  exact ⟨addrPair_toNat s, _, exec_load_of_loadable a h, hreg, hflags, hpc, hframe⟩

/-- Settles O4: the address picks the register; its value goes to Ra, and the read clears the latch of 0xBF01 alone. -/
theorem loadReadsDeviceRegisters : Obligations.LoadReadsDeviceRegisters := by
  intro a s hmem
  obtain ⟨d, hd⟩ := Option.isSome_iff_exists.1 ((deviceRegAt_isSome_iff _).2 hmem)
  have hafter := afterDeviceRead_eq s d
  refine ⟨_, exec_load_of_device a hd, ?_⟩
  have hvalue : ∀ {addr : Word} (d' : DeviceReg), deviceRegAt addr = some d' → s.addrPair = addr →
      ((s.afterDeviceRead d).setReg a (s.deviceValue d)).advance.reg a = s.deviceValue d' := by
    rintro _ d' hd' rfl
    cases hd.symm.trans hd'
    simp
  refine ⟨hvalue .keysState rfl, hvalue .keysPressed rfl, hvalue .mouseX rfl, hvalue .mouseY rfl,
    hvalue .mouseButtons rfl, fun h => ?tickLow, fun h => ?tickHigh, hvalue .frameCount rfl, hvalue .vsync rfl,
    ?devices, ?frame⟩
  case tickLow =>
    rw [hvalue .tickLow rfl h]
    exact lowHalf_toNat s.tick
  case tickHigh =>
    rw [hvalue .tickHigh rfl h]
    exact highHalf_toNat s.tick
  case devices =>
    have hlatch : d = .keysPressed ↔ s.addrPair = 0xBF01#16 := by
      rw [← deviceRegAt_keysPressed_iff, hd, Option.some_inj]
    rw [hafter]
    by_cases h : d = .keysPressed
    · simp [h, hlatch.1 h]
    · simp [h, mt hlatch.2 h]
  case frame =>
    rw [hafter]
    exact ⟨⟨rfl, rfl⟩, pcPassed_of_pc_eq rfl, ⟨rfl, rfl, rfl, rfl, rfl⟩, rfl, rfl, sameMemory_of_mem_eq rfl rfl,
      sameRegsBut_setReg s a _⟩

/-- Settles O5: each clause is one of the outcomes of LOAD, and the ranges of the others exclude it. -/
theorem loadStopsWhereNothingIsReadable : Obligations.LoadStopsWhereNothingIsReadable := by
  intro a s
  rcases exec_load_cases a s with ⟨hl, he⟩ | ⟨d, hd, he⟩ | ⟨hr, hn, he⟩ | ⟨hr, hram, he⟩
  · obtain ⟨hmmio, hext⟩ := hl.region
    rw [Ne, regionOf_mmio_iff] at hmmio
    rw [regionOf_extended_iff] at hext
    exact ⟨fun hlo hhi hram => absurd (hext ⟨hlo, hhi⟩) (by simp [hram]),
      fun hlo hhi _ => absurd ⟨hlo, hhi⟩ hmmio, by simp [he]⟩
  · have hmem : s.addrPair ∈ deviceAddrs := (deviceRegAt_isSome_iff _).1 (Option.isSome_of_mem hd)
    have hmmio := (regionOf_mmio_iff _).1 (mmio_of_mem_deviceAddrs hmem)
    exact ⟨by omega, fun _ _ hn => absurd hmem hn, by simp [he]⟩
  · have hmmio := (regionOf_mmio_iff _).1 hr
    exact ⟨by omega, fun _ _ _ => he, fun _ _ => ⟨fun hl => hl.region.1 hr, hn⟩⟩
  · have hext := (regionOf_extended_iff _).1 hr
    refine ⟨fun _ _ _ => he, by omega, fun _ _ => ⟨fun hl => ?_, fun hmem => ?_⟩⟩
    · exact absurd (hl.region.2 hr) (by simp [hram])
    · cases hr.symm.trans (mmio_of_mem_deviceAddrs hmem)

/-- Settles O6: a STORE to storage is one byte written. -/
theorem storeWritesStorage : Obligations.StoreWritesStorage := by
  intro a s h
  exact ⟨_, exec_store_of_storable a h, by simp, sameMemoryOutside_writeStorage s s.addrPair (s.reg a), ⟨rfl, rfl⟩,
    pcPassed_of_pc_eq rfl, ⟨rfl, rfl, rfl, rfl, rfl⟩, rfl, rfl, rfl, sameRegsBut_of_regs_eq rfl none⟩

/-- Settles O7: a STORE of 1 to VSYNC writes the devices and no memory. -/
theorem storeToVsyncRequestsASwap : Obligations.StoreToVsyncRequestsASwap := by
  intro a s haddr hv
  exact ⟨_, exec_store_vsync haddr hv, rfl, sameMemory_of_mem_eq rfl rfl, ⟨rfl, rfl⟩, pcPassed_of_pc_eq rfl,
    ⟨rfl, rfl, rfl, rfl, rfl⟩, rfl, rfl, sameRegsBut_of_regs_eq rfl none⟩

/-- Settles O8: each clause is one of the outcomes of STORE, and the ranges of the others exclude it. -/
theorem storeStopsWhereNothingIsWritable : Obligations.StoreStopsWhereNothingIsWritable := by
  intro a s
  rcases exec_store_cases a s with ⟨hs, he⟩ | ⟨haddr, hv, he⟩ | ⟨hr, hn, he⟩ | ⟨hout, he⟩
  · obtain ⟨hmmio, hext⟩ := hs.loadable.region
    rw [Ne, regionOf_mmio_iff] at hmmio
    rw [regionOf_extended_iff] at hext
    have hcode := hs.above_code
    exact ⟨by omega, fun hlo hhi hram => absurd (hext ⟨hlo, hhi⟩) (by simp [hram]),
      fun hlo hhi _ => absurd ⟨hlo, hhi⟩ hmmio, by simp [he]⟩
  · have hnat : s.addrPair.toNat = 0xBF23 := congrArg BitVec.toNat haddr
    exact ⟨by omega, by omega, fun _ _ hn => absurd ⟨haddr, hv⟩ hn, by simp [he]⟩
  · have hmmio := (regionOf_mmio_iff _).1 hr
    exact ⟨by omega, by omega, fun _ _ _ => he, fun _ _ => ⟨fun hs => hs.loadable.region.1 hr, hn⟩⟩
  · rw [regionOf_extended_iff] at hout
    refine ⟨fun _ => he, fun _ _ _ => he, by omega, fun _ _ => ⟨fun hs => ?_, fun ⟨haddr, _⟩ => ?_⟩⟩
    · rcases hout with hlow | ⟨hext, hram⟩
      · exact absurd hs.above_code (by omega)
      · exact absurd (hs.loadable.region.2 ((regionOf_extended_iff _).2 hext)) (by simp [hram])
    · have hnat : s.addrPair.toNat = 0xBF23 := congrArg BitVec.toNat haddr
      omega

/-- Settles O9: the STORE leaves R6 and R7, so the LOAD reads at the address written. -/
theorem storeThenLoadReturnsTheByte : Obligations.StoreThenLoadReturnsTheByte := by
  intro a b s h
  have hload : LoadableStorage (s.writeStorage s.addrPair (s.reg a)).advance
      (s.writeStorage s.addrPair (s.reg a)).advance.addrPair := h.loadable
  refine ⟨_, _, exec_store_of_storable a h, exec_load_of_loadable b hload, ?value, ?regs, ?memory, rfl, rfl⟩
  case value =>
    rw [reg_advance, reg_setReg_same]
    exact readStorage_writeStorage_same s s.addrPair (s.reg a)
  case regs => exact sameRegsBut_setReg s b _
  case memory => exact sameMemoryOutside_writeStorage s s.addrPair (s.reg a)

end Sys2Proof.Machine
end

section
/-! SUPPORT. The four stack instructions (spec/42_stack.md R79, R80, spec/44_subroutines.md R87 to R89): each as one
equation, the bound of SP that decides it and what it then does (D12). -/

namespace Sys2Proof.Machine

theorem exec_push_eq (a : Reg) (s : State) :
    exec (.push a) s = if s.sp.toNat < 0x8001 then .fault (.stackOverflow s.sp)
      else .next ((s.writeStorage s.sp (s.reg a)).setSp (s.sp - 1#16)).advance := by
  change advanceOrFault (pushByte s (s.reg a)) = _
  rw [pushByte]
  split <;> rfl

theorem exec_pop_eq (a : Reg) (s : State) :
    exec (.pop a) s = if 0xBEFF ≤ s.sp.toNat then .fault (.stackUnderflow s.sp)
      else .next ((s.setSp (s.sp + 1#16)).setReg a (s.readStorage (s.sp + 1#16))).advance := by
  change advanceOrFault ((popByte s).map _) = _
  rw [popByte]
  split
  next h => rw [if_pos (by omega)]; rfl
  next h => rw [if_neg (by omega)]; rfl

theorem exec_call_eq (addr16 : Word) (s : State) :
    exec (.call addr16) s = if s.sp.toNat < 0x8002 then .fault (.stackOverflow s.sp)
      else .next ((((s.writeStorage s.sp (firstPushed s.config.retAddrLayout s.pcNext)).writeStorage (s.sp - 1#16)
        (secondPushed s.config.retAddrLayout s.pcNext)).setSp (s.sp - 2#16)).setPc addr16) := by
  change execCall addr16 s = _
  rw [execCall, push16]
  split
  next t ht => split at ht <;> cases ht; rw [if_neg (by omega)]
  next f hf => split at hf <;> cases hf; rw [if_pos (by omega)]; rfl

theorem exec_ret_eq (s : State) :
    exec .ret s = if 0xBEFE ≤ s.sp.toNat then .fault (.stackUnderflow s.sp)
      else .next ((s.setSp (s.sp + 2#16)).setPc
        (joinPopped s.config.retAddrLayout (s.readStorage (s.sp + 1#16)) (s.readStorage (s.sp + 2#16)))) := by
  change execRet s = _
  rw [execRet, pop16]
  split
  next v t ht => split at ht <;> cases ht; rw [if_neg (by omega)]
  next f hf => split at hf <;> cases hf; rw [if_pos (by omega)]; rfl

section Completes

variable {s : State}

theorem exec_push_of_le (a : Reg) (h : 0x8001 ≤ s.sp.toNat) :
    exec (.push a) s = .next ((s.writeStorage s.sp (s.reg a)).setSp (s.sp - 1#16)).advance := by
  rw [exec_push_eq, if_neg (by omega)]

theorem exec_pop_of_lt (a : Reg) (h : s.sp.toNat < 0xBEFF) :
    exec (.pop a) s = .next ((s.setSp (s.sp + 1#16)).setReg a (s.readStorage (s.sp + 1#16))).advance := by
  rw [exec_pop_eq, if_neg (by omega)]

theorem exec_call_of_le (addr16 : Word) (h : 0x8002 ≤ s.sp.toNat) :
    exec (.call addr16) s = .next ((((s.writeStorage s.sp (firstPushed s.config.retAddrLayout s.pcNext)).writeStorage
      (s.sp - 1#16) (secondPushed s.config.retAddrLayout s.pcNext)).setSp (s.sp - 2#16)).setPc addr16) := by
  rw [exec_call_eq, if_neg (by omega)]

theorem exec_ret_of_lt (h : s.sp.toNat < 0xBEFE) :
    exec .ret s = .next ((s.setSp (s.sp + 2#16)).setPc
      (joinPopped s.config.retAddrLayout (s.readStorage (s.sp + 1#16)) (s.readStorage (s.sp + 2#16)))) := by
  rw [exec_ret_eq, if_neg (by omega)]

end Completes

/-- An instruction that stops with one fault under a condition and completes otherwise stops exactly there. -/
theorem ite_eq_fault_iff {c : Prop} [Decidable c] {f : Fault} {t : State} :
    (if c then (.fault f : Result) else .next t) = .fault f ↔ c := by
  split <;> simp [*]

/-! ### SP moved up and down -/

theorem sub_one_ne_self (sp : Word) : sp - 1#16 ≠ sp := by bv_omega

theorem sub_two_add_one (sp : Word) : sp - 2#16 + 1#16 = sp - 1#16 := by bv_omega

/-- The two writes of PUSH16 leave every other byte as it was (R87). -/
theorem sameMemoryOutside_writeStorage_two (s : State) (x y : Word) (v w : Byte) :
    SameMemoryOutside [x, y] s ((s.writeStorage x v).writeStorage y w) := by
  intro addr haddr
  rw [List.mem_cons, List.mem_singleton, not_or] at haddr
  rw [readStorage_writeStorage_other _ _ _ _ haddr.2, readStorage_writeStorage_other _ _ _ _ haddr.1]

/-- After PUSH16 the old SP holds the byte it stored first (R87). -/
theorem readStorage_push16_first (s : State) (sp : Word) (v w : Byte) :
    ((s.writeStorage sp v).writeStorage (sp - 1#16) w).readStorage sp = v := by
  rw [readStorage_writeStorage_other _ _ _ _ (sub_one_ne_self sp).symm, readStorage_writeStorage_same]

/-- The return address that CALL pushes, as a number (R12). -/
theorem pcNext_toNat (s : State) : s.pcNext.toNat = (s.pc.toNat + 3) % 65536 := BitVec.toNat_add s.pc 3#16

end Sys2Proof.Machine
end

section
/-! The stack and subroutines: PUSH, POP, CALL and RET (spec/42_stack.md R78 to R80, spec/44_subroutines.md R87 to R89,
spec/60_exceptions.md R99, R100). -/

namespace Sys2Proof.Machine

/-- Settles O21: PUSH is one byte written at SP, and then SP moved. -/
theorem pushStoresThenDecrementsSp : Obligations.PushStoresThenDecrementsSp := by
  intro a s h
  refine ⟨_, exec_push_of_le a h, readStorage_writeStorage_same s s.sp (s.reg a),
    sameMemoryOutside_writeStorage s s.sp (s.reg a), ?sp, ⟨rfl, rfl⟩, pcPassed_of_pc_eq rfl,
    ⟨rfl, rfl, rfl, rfl, rfl⟩, rfl, rfl, sameRegsBut_of_regs_eq rfl none⟩
  case sp =>
    rw [advance_sp, setSp_sp]
    bv_omega

/-- Settles O22: POP moves SP, and then reads at the SP it leaves. -/
theorem popIncrementsSpThenReads : Obligations.PopIncrementsSpThenReads := by
  intro a s h
  refine ⟨_, exec_pop_of_lt a h, ?sp, by simp, sameMemory_of_mem_eq rfl rfl, ⟨rfl, rfl⟩, pcPassed_of_pc_eq rfl,
    ⟨rfl, rfl, rfl, rfl, rfl⟩, rfl, rfl, sameRegsBut_setReg s a _⟩
  case sp =>
    rw [advance_sp, setReg_sp, setSp_sp]
    bv_omega

/-- Settles O23: POP reads at the SP that PUSH wrote at, because SP - 1 + 1 is SP. -/
theorem pushThenPopReturnsTheByte : Obligations.PushThenPopReturnsTheByte := by
  intro a b s hlow hhigh
  have hsp : ((s.writeStorage s.sp (s.reg a)).setSp (s.sp - 1#16)).advance.sp.toNat < 0xBEFF := by
    rw [advance_sp, setSp_sp]
    bv_omega
  refine ⟨_, _, exec_push_of_le a hlow, exec_pop_of_lt b hsp, by simp, BitVec.sub_add_cancel s.sp 1#16,
    sameRegsBut_setReg s b _, ⟨rfl, rfl⟩⟩

/-- Settles O24: CALL writes two bytes, which the layout takes from the halves of the return address. -/
theorem callPushesTheReturnAddress : Obligations.CallPushesTheReturnAddress := by
  intro addr16 s h
  refine ⟨_, exec_call_of_le addr16 h, rfl, ?sp, fun hlayout => ?hiAtHigher, fun hlayout => ?hiAtLower,
    sameMemoryOutside_writeStorage_two s _ _ _ _, ⟨rfl, rfl⟩, ⟨rfl, rfl, rfl, rfl, rfl⟩, rfl, rfl,
    sameRegsBut_of_regs_eq rfl none⟩
  case sp =>
    rw [setPc_sp, setSp_sp]
    bv_omega
  all_goals
    rw [readStorage_setPc, readStorage_setSp, readStorage_push16_first, readStorage_setPc, readStorage_setSp,
      readStorage_writeStorage_same, hlayout, firstPushed, secondPushed, highHalf_toNat, lowHalf_toNat, pcNext_toNat]
    omega

/-- Settles O25: RET joins the two bytes above SP by the layout. -/
theorem retTakesPcFromTheStack : Obligations.RetTakesPcFromTheStack := by
  intro s h
  refine ⟨_, exec_ret_of_lt h, ?sp, fun hlayout => ?hiAtHigher, fun hlayout => ?hiAtLower, sameMemory_of_mem_eq rfl rfl,
    ⟨rfl, rfl⟩, ⟨rfl, rfl, rfl, rfl, rfl⟩, rfl, rfl, sameRegsBut_of_regs_eq rfl none⟩
  case sp =>
    rw [setPc_sp, setSp_sp]
    bv_omega
  all_goals
    rw [setPc_pc, hlayout]
    exact append_toNat _ _

/-- Settles O26: RET reads the two bytes that CALL wrote, and joining them undoes the split under either layout. -/
theorem retReturnsAfterTheMatchingCall : Obligations.RetReturnsAfterTheMatchingCall := by
  intro addr16 s hlow hhigh
  refine ⟨_, exec_call_of_le addr16 hlow, fun w hsp hconfig hfirst hsecond => ?_⟩
  rw [setPc_sp, setSp_sp] at hsp
  rw [readStorage_setPc, readStorage_setSp, readStorage_push16_first] at hfirst
  rw [readStorage_setPc, readStorage_setSp, readStorage_writeStorage_same] at hsecond
  have hlayout : w.config.retAddrLayout = s.config.retAddrLayout := congrArg Config.retAddrLayout hconfig
  have hbound : w.sp.toNat < 0xBEFE := by
    rw [hsp]
    bv_omega
  refine ⟨_, exec_ret_of_lt hbound, ?pc, ?spBack⟩
  case pc =>
    rw [setPc_pc, hsp, sub_two_add_one, BitVec.sub_add_cancel, hfirst, hsecond, hlayout, joinPopped_pushed, pcNext_toNat]
  case spBack =>
    rw [setPc_sp, setSp_sp, hsp]
    exact BitVec.sub_add_cancel s.sp 2#16

/-- Settles O27: each of the four stops exactly under its bound's condition. -/
theorem stackFaultsExactlyAtTheBounds : Obligations.StackFaultsExactlyAtTheBounds := by
  intro a addr16 s
  rw [exec_push_eq, exec_call_eq, exec_pop_eq, exec_ret_eq]
  exact ⟨ite_eq_fault_iff, ite_eq_fault_iff, ite_eq_fault_iff, ite_eq_fault_iff⟩

/-- With SP `room` above 0x8000, `room` pushes complete and one more overflows with SP at 0x8000 (R78, R99). -/
theorem pushTimes_of_room (a : Reg) (n : Nat) {room : Nat} {s : State} (hsp : s.sp.toNat = 0x8000 + room) :
    (n ≤ room → ∃ t, pushTimes a n s = .next t ∧ t.sp.toNat = 0x8000 + room - n) ∧
    (room < n → pushTimes a n s = .fault (.stackOverflow 0x8000)) := by
  induction n generalizing s room with
  | zero => exact ⟨fun _ => ⟨s, rfl, hsp⟩, by omega⟩
  | succ n ih =>
    rw [pushTimes]
    cases room with
    | zero =>
      have hfull : s.sp = 0x8000#16 := BitVec.eq_of_toNat_eq hsp
      rw [exec_push_eq, if_pos (by omega), hfull]
      exact ⟨by omega, fun _ => rfl⟩
    | succ room =>
      rw [exec_push_of_le a (by omega)]
      have hnext : ((s.writeStorage s.sp (s.reg a)).setSp (s.sp - 1#16)).advance.sp.toNat = 0x8000 + room := by
        rw [advance_sp, setSp_sp]
        bv_omega
      obtain ⟨hfits, hover⟩ := ih hnext
      refine ⟨fun h => ?_, fun h => hover (by omega)⟩
      obtain ⟨t, ht, htsp⟩ := hfits (by omega)
      exact ⟨t, ht, by omega⟩

/-- Settles O28: the empty stack has room for 0xBEFF - 0x8000 = 16,127 bytes. -/
theorem stackHoldsExactly16127Bytes : Obligations.StackHoldsExactly16127Bytes := by
  intro a n s hsp
  have hroom : s.sp.toNat = 0x8000 + 16127 := congrArg BitVec.toNat hsp
  exact pushTimes_of_room a n hroom

end Sys2Proof.Machine
end

section
/-! Arithmetic and logic: INC, DEC, CMP, SHL, SHR, SBC, two-byte sums and differences, and a comparison followed by a
jump (spec/41_arithmetic_logic.md R66 to R68, R72, R74 to R77, spec/43_jumps.md R83 to R86). -/

namespace Sys2Proof.Machine

theorem exec_inc (a : Reg) (s : State) : exec (.inc a) s = s.writeResult a (clearingOut (s.reg a + 1)) := rfl

theorem exec_dec (a : Reg) (s : State) : exec (.dec a) s = s.writeResult a (clearingOut (s.reg a - 1)) := rfl

theorem exec_cmp (a b : Reg) (s : State) :
    exec (.cmp a b) s = .next (s.setFlags (subOut (s.reg a) (s.reg b) false)).advance := rfl

theorem exec_shl (a : Reg) (s : State) : exec (.shl a) s = s.writeResult a (shlOut (s.reg a)) := rfl

theorem exec_shr (a : Reg) (s : State) : exec (.shr a) s = s.writeResult a (shrOut (s.reg a)) := rfl

theorem exec_sbc (a b : Reg) (s : State) :
    exec (.sbc a b) s = s.writeResult a (subOut (s.reg a) (s.reg b) s.c) := rfl

/-- The bytes `27 aa bb` (R72). -/
theorem spelled_cmp (a b : Reg) : Spelled ⟨0x27, a.toByte, b.toByte⟩ (.cmp a b) :=
  ⟨rfl, decodeRR_encodeRR 0x27 a b .cmp⟩

/-- The bytes `2B aa bb` (R76). -/
theorem spelled_sbc (a b : Reg) : Spelled ⟨0x2B, a.toByte, b.toByte⟩ (.sbc a b) :=
  ⟨rfl, decodeRR_encodeRR 0x2B a b .sbc⟩

/-! ### Outcomes as numbers -/

/-- The difference with no borrow in is 0 exactly between equal bytes (R66, R72). -/
theorem zeroFlag_subOut_iff (x y : Byte) : zeroFlag (subOut x y false).result = true ↔ x = y := by
  have hx := x.isLt
  have hy := y.isLt
  rw [zeroFlag_iff, subOut_result_toNat, ← BitVec.toNat_inj, show flagNat false = 0 from rfl]
  omega

/-- One place left, the top bit lost (R74). -/
theorem shlOut_result_toNat (x : Byte) : (shlOut x).result.toNat = x.toNat * 2 % 256 := by
  rw [shlOut, BitVec.toNat_shiftLeft, Nat.shiftLeft_eq]

/-- The bit lost is bit 7 (R74). -/
theorem shlOut_carry_iff (x : Byte) : (shlOut x).carry = true ↔ x.toNat ≥ 128 := by
  have hx := x.isLt
  rw [shlOut, BitVec.getLsbD, Nat.testBit_eq_decide_div_mod_eq, decide_eq_true_iff]
  omega

/-- One place right (R75). -/
theorem shrOut_result_toNat (x : Byte) : (shrOut x).result.toNat = x.toNat / 2 := by
  rw [shrOut, BitVec.toNat_ushiftRight, Nat.shiftRight_eq_div_pow, pow_one]

/-- The bit lost is bit 0 (R75). -/
theorem shrOut_carry_iff (x : Byte) : (shrOut x).carry = true ↔ x.toNat % 2 = 1 := by
  rw [shrOut, BitVec.getLsbD, Nat.testBit_eq_decide_div_mod_eq, decide_eq_true_iff, pow_zero, Nat.div_one]

/-! ### One instruction -/

/-- Settles O12: both clear C; subtracting 1 is adding 255 modulo 256. -/
theorem incDecWrapAndClearCarry : Obligations.IncDecWrapAndClearCarry := by
  intro a x s
  have hdec : (s.reg a - 1).toNat = ((s.reg a).toNat + 255) % 256 := by
    rw [BitVec.toNat_sub, Nat.add_comm]
    rfl
  exact ⟨withReg_toByte a fun r => .ok (.inc r),
    aluEffect_of_exec_eq (exec_inc a s) (BitVec.toNat_add _ _) (clearingOut_carry_iff _),
    withReg_toByte a fun r => .ok (.dec r),
    aluEffect_of_exec_eq (exec_dec a s) hdec (clearingOut_carry_iff _)⟩

/-- Settles O14: CMP writes the flags of the difference: 0 between equal operands, a borrow where the first is less. -/
theorem cmpOrdersWithoutWriting : Obligations.CmpOrdersWithoutWriting := by
  intro a b s
  have hz := zeroFlag_subOut_iff (s.reg a) (s.reg b)
  have hc := subOut_carry_iff (s.reg a) (s.reg b) false
  rw [← BitVec.toNat_inj] at hz
  rw [show flagNat false = 0 from rfl, Nat.add_zero] at hc
  refine ⟨spelled_cmp a b, _, exec_cmp a b s, fun heq => ?equal, fun hlt => ?less, fun hgt => ?greater,
    pcPassed_of_pc_eq rfl, (registerFrame_setPc s _).setFlags _⟩
  case equal => exact ⟨hz.2 heq, Bool.eq_false_of_not_eq_true fun h => absurd (hc.1 h) (by omega)⟩
  case less => exact ⟨Bool.eq_false_of_not_eq_true fun h => absurd (hz.1 h) (by omega), hc.2 hlt⟩
  case greater =>
    exact ⟨Bool.eq_false_of_not_eq_true fun h => absurd (hz.1 h) (by omega),
      Bool.eq_false_of_not_eq_true fun h => absurd (hc.1 h) (by omega)⟩

/-- Settles O16: a shift by one place doubles or halves, and the bit it loses is the carry. -/
theorem shiftsMoveOneBitIntoCarry : Obligations.ShiftsMoveOneBitIntoCarry := by
  intro a x s
  exact ⟨withReg_toByte a fun r => .ok (.shl r),
    aluEffect_of_exec_eq (exec_shl a s) (shlOut_result_toNat _) (shlOut_carry_iff _),
    withReg_toByte a fun r => .ok (.shr r),
    aluEffect_of_exec_eq (exec_shr a s) (shrOut_result_toNat _) (shrOut_carry_iff _)⟩

/-- Settles O17: SBC is SUB's difference with the old C, as 0 or 1, for its borrow in. -/
theorem sbcSubtractsTheBorrow : Obligations.SbcSubtractsTheBorrow := by
  intro a b s
  exact ⟨spelled_sbc a b,
    aluEffect_of_exec_eq (exec_sbc a b s) (subOut_result_toNat _ _ s.c) (subOut_carry_iff _ _ s.c)⟩

/-- A register put back to what it held is as if never written. -/
theorem Regs.set_set_get (g : Regs) (a : Reg) (v : Byte) : (g.set a v).set a (g.get a) = g := by
  cases a <;> rfl

/-- Settles O18: both write the flags of one outcome, and SUB's register write is undone. -/
theorem cmpIsSubWithoutTheResult : Obligations.CmpIsSubWithoutTheResult := by
  intro a b s t h
  cases (exec_sub a b s).symm.trans h
  rw [exec_cmp]
  have hregs := Regs.set_set_get s.regs a (subOut (s.reg a) (s.reg b) false).result
  exact congrArg (fun g => Host.Outcome.next
    { (s.setFlags (subOut (s.reg a) (s.reg b) false)).advance with regs := g }) hregs.symm

/-! ### Two instructions -/

/-- A flag that says a condition is the number 1 where it holds and 0 elsewhere. -/
theorem flagNat_eq_ite {b : Bool} {p : Prop} [Decidable p] (h : b = true ↔ p) : flagNat b = if p then 1 else 0 := by
  rw [flagNat]
  exact if_congr h rfl rfl

/-- Two results written one after another to different registers: the second leaves the first (R10). -/
theorem append_of_two_results {s : State} {ah al : Reg} (hah : ah ≠ al) (low high : AluOut) :
    let t := ((s.setReg al low.result).setFlags low).advance
    let u := ((t.setReg ah high.result).setFlags high).advance
    (u.reg ah ++ u.reg al : Word).toNat = high.result.toNat * 256 + low.result.toNat := by
  simp [append_toNat, reg_setReg_other _ _ _ _ hah.symm]

/-- Settles O19: the low sum's carry is the carry into the high sum; the high operands are not the low result, so ADC
reads them as they were. -/
theorem addThenAdcAddsTwoByteNumbers : Obligations.AddThenAdcAddsTwoByteNumbers := by
  intro ah al bh bl s hah hbh
  refine ⟨_, _, exec_add al bl s, exec_adc ah bh _, ?_⟩
  rw [append_of_two_results hah]
  simp only [append_toNat, reg_advance, reg_setFlags, reg_setReg_other _ _ _ _ hah, reg_setReg_other _ _ _ _ hbh,
    advance_c, setFlags_c, addOut_result_toNat, addOut_carry_iff,
    flagNat_eq_ite (addOut_carry_iff (s.reg al) (s.reg bl) false), show flagNat false = 0 from rfl]
  have hal := (s.reg al).isLt
  have hbl := (s.reg bl).isLt
  split <;> omega

/-- Settles O20: the low difference's borrow is the borrow into the high one; the high operands are not the low result,
so SBC reads them as they were. -/
theorem subThenSbcSubtractsTwoByteNumbers : Obligations.SubThenSbcSubtractsTwoByteNumbers := by
  intro ah al bh bl s hah hbh
  refine ⟨_, _, exec_sub al bl s, exec_sbc ah bh _, ?_⟩
  rw [append_of_two_results hah]
  simp only [append_toNat, reg_advance, reg_setFlags, reg_setReg_other _ _ _ _ hah, reg_setReg_other _ _ _ _ hbh,
    advance_c, setFlags_c, subOut_result_toNat, subOut_carry_iff,
    flagNat_eq_ite (subOut_carry_iff (s.reg al) (s.reg bl) false), show flagNat false = 0 from rfl]
  have hal := (s.reg al).isLt
  have hbl := (s.reg bl).isLt
  have hbhLt := (s.reg bh).isLt
  split <;> omega

/-- A jump that writes PC by its condition reaches a target that is not the next instruction exactly when it is taken. -/
theorem exists_jump_to_target_iff {i : Instr} {t : State} {taken : Bool} {target : Word}
    (hexec : exec i t = .next (t.setPc (t.jumpPc taken target))) (h : t.pc + 3#16 ≠ target) :
    (∃ u, exec i t = .next u ∧ u.pc = target) ↔ taken = true := by
  rw [hexec, ← jumpPc_eq_target_iff t taken target h]
  constructor
  · rintro ⟨u, hu, hpc⟩
    cases hu
    exact hpc
  · exact fun hpc => ⟨_, rfl, hpc⟩

/-- Settles O30: CMP's C says less and its Z says equal, and each jump is taken by one of them or its negation. -/
theorem compareThenJumpBranchesOnUnsignedOrder : Obligations.CompareThenJumpBranchesOnUnsignedOrder := by
  intro a b addr16 s htarget
  refine ⟨_, exec_cmp a b s, ?_⟩
  have hne : (s.setFlags (subOut (s.reg a) (s.reg b) false)).advance.pc + 3#16 ≠ addr16 := by
    rintro rfl
    rw [advance_pc, setFlags_pc] at htarget
    exact htarget (by bv_omega)
  have hc : (subOut (s.reg a) (s.reg b) false).carry = true ↔ (s.reg a).toNat < (s.reg b).toNat :=
    subOut_carry_iff (s.reg a) (s.reg b) false
  have hz := zeroFlag_subOut_iff (s.reg a) (s.reg b)
  rw [exists_jump_to_target_iff (exec_jc addr16 _) hne, exists_jump_to_target_iff (exec_jnc addr16 _) hne,
    exists_jump_to_target_iff (exec_jz addr16 _) hne, exists_jump_to_target_iff (exec_jnz addr16 _) hne]
  simp only [advance_c, advance_z, setFlags_c, setFlags_z, Bool.not_eq_true', ← Bool.not_eq_true, hc, hz, not_lt, Ne,
    and_self]

end Sys2Proof.Machine
end

section
/-! SUPPORT. What an instruction that completes has done: one lemma for all 26, from which every claim about all
instructions follows (spec/10_state.md R10, R13, R15, R24, spec/20_memory.md R36, R37). -/

namespace Sys2Proof.Machine

theorem exec_halt (s : State) : exec .halt s = .next { s.advance with halted := true } := rfl

/-- An instruction whose row names no byte of storage, no move of SP and no HALTED. -/
structure OnRegisters (i : Instr) : Prop where
  stored : ∀ s, storedAddrs i s = []
  sp : spMove i = 0
  notHalt : i ≠ .halt

/-- The twelve ways an instruction completes from `s`: the next state as updates of `s`, with what decided it. -/
inductive Completes (s : State) : Instr → State → Prop
  | register {i : Instr} {a : Reg} (v : Byte) (on : OnRegisters i) (writes : regWritten i = some a)
      (flags : writesFlags i = false) : Completes s i (s.setReg a v).advance
  | result {i : Instr} {a : Reg} (o : AluOut) (on : OnRegisters i) (writes : regWritten i = some a)
      (flags : writesFlags i = true) : Completes s i ((s.setReg a o.result).setFlags o).advance
  | compare (a b : Reg) (o : AluOut) : Completes s (.cmp a b) (s.setFlags o).advance
  | jump {i : Instr} (v : Word) (on : OnRegisters i) (writes : regWritten i = none)
      (flags : writesFlags i = false) : Completes s i (s.setPc v)
  | loadLatch (a : Reg) (v : Byte) (addr : s.addrPair = 0xBF01#16) :
      Completes s (.load a) ((s.setDevices { s.devices with keysPressed := 0#8 }).setReg a v).advance
  | storeByte (a : Reg) (storable : StorableStorage s s.addrPair) :
      Completes s (.store a) (s.writeStorage s.addrPair (s.reg a)).advance
  | storeVsync (a : Reg) (addr : s.addrPair = 0xBF23#16) (one : s.reg a = 1#8) :
      Completes s (.store a) (s.setDevices { s.devices with vsync := 1#8 }).advance
  | push (a : Reg) (v : Byte) (room : 0x8001 ≤ s.sp.toNat) :
      Completes s (.push a) ((s.writeStorage s.sp v).setSp (s.sp - 1#16)).advance
  | pop (a : Reg) (v : Byte) (held : s.sp.toNat < 0xBEFF) :
      Completes s (.pop a) ((s.setSp (s.sp + 1#16)).setReg a v).advance
  | call (addr16 : Word) (v w : Byte) (room : 0x8002 ≤ s.sp.toNat) :
      Completes s (.call addr16)
        ((((s.writeStorage s.sp v).writeStorage (s.sp - 1#16) w).setSp (s.sp - 2#16)).setPc addr16)
  | ret (v : Word) (held : s.sp.toNat < 0xBEFE) : Completes s .ret ((s.setSp (s.sp + 2#16)).setPc v)
  | halt : Completes s .halt { s.advance with halted := true }

/-- Reading a device register other than the latch does nothing to the platform (R37). -/
theorem afterDeviceRead_of_ne (s : State) {d : DeviceReg} (h : d ≠ .keysPressed) : s.afterDeviceRead d = s := by
  rw [afterDeviceRead_eq, if_neg h]
  rfl

/-- Every next state of an instruction is one of these. -/
theorem completes_of_exec {i : Instr} {s t : State} (h : exec i s = .next t) : Completes s i t := by
  cases i with
  | loadi a _ | mov a _ =>
    cases h
    exact .register _ ⟨fun _ => rfl, rfl, nofun⟩ rfl rfl
  | load a =>
    rcases exec_load_cases a s with ⟨-, he⟩ | ⟨d, hd, he⟩ | ⟨-, -, he⟩ | ⟨-, -, he⟩ <;> cases he.symm.trans h
    · exact .register _ ⟨fun _ => rfl, rfl, nofun⟩ rfl rfl
    · by_cases hlatch : d = .keysPressed
      · subst hlatch
        exact .loadLatch a _ ((deviceRegAt_keysPressed_iff _).1 hd)
      · rw [afterDeviceRead_of_ne s hlatch]
        exact .register _ ⟨fun _ => rfl, rfl, nofun⟩ rfl rfl
  | store a =>
    rcases exec_store_cases a s with ⟨hs, he⟩ | ⟨haddr, hv, he⟩ | ⟨-, -, he⟩ | ⟨-, he⟩ <;> cases he.symm.trans h
    · exact .storeByte a hs
    · exact .storeVsync a haddr hv
  | add a _ | sub a _ | inc a | dec a | and a _ | or a _ | xor a _ | adc a _ | shl a | shr a | sbc a _ =>
    cases h
    exact .result _ ⟨fun _ => rfl, rfl, nofun⟩ rfl rfl
  | cmp a b =>
    cases h
    exact .compare a b _
  | push a =>
    rw [exec_push_eq] at h
    split at h <;> cases h
    exact .push a _ (by omega)
  | pop a =>
    rw [exec_pop_eq] at h
    split at h <;> cases h
    exact .pop a _ (by omega)
  | jmp _ | jz _ | jnz _ | jc _ | jnc _ =>
    cases h
    exact .jump _ ⟨fun _ => rfl, rfl, nofun⟩ rfl rfl
  | call addr16 =>
    rw [exec_call_eq] at h
    split at h <;> cases h
    exact .call addr16 _ _ (by omega)
  | ret =>
    rw [exec_ret_eq] at h
    split at h <;> cases h
    exact .ret _ (by omega)
  | halt =>
    cases h
    exact .halt

end Sys2Proof.Machine
end

section
/-! The whole machine, one instruction: what every instruction leaves as it was, and the faults it can answer
(spec/10_state.md R10, R13, R15, R17, spec/20_memory.md R25, R36, R37, spec/60_exceptions.md R94). -/

namespace Sys2Proof.Machine

theorem sameFlags_refl (s : State) : SameFlags s s := ⟨rfl, rfl⟩

/-- All storage unchanged is storage unchanged outside whatever is stored. -/
theorem SameMemory.outside {s t : State} (h : SameMemory s t) (stored : List Word) : SameMemoryOutside stored s t :=
  fun addr _ => h addr

/-- A STORE to storage stores the one byte at ADDR (R36). -/
theorem StorableStorage.storedAddrs {s : State} (a : Reg) (h : StorableStorage s s.addrPair) :
    storedAddrs (.store a) s = [s.addrPair] :=
  if_neg h.loadable.region.1

namespace Completes

variable {i : Instr} {s t : State} (h : Completes s i t)
include h

theorem sameRegsBut : SameRegsBut (regWritten i) s t := by
  cases h with
  | register v _ writes => exact writes ▸ sameRegsBut_setReg s _ v
  | result o _ writes => exact writes ▸ sameRegsBut_setReg s _ o.result
  | loadLatch a v => exact sameRegsBut_setReg s a v
  | pop a v => exact sameRegsBut_setReg s a v
  | compare | jump | storeByte | storeVsync | push | call | ret | halt => exact sameRegsBut_of_regs_eq rfl _

theorem sameFlags (hf : writesFlags i = false) : SameFlags s t := by
  cases h with
  | result _ _ _ flags => exact absurd (flags.symm.trans hf) nofun
  | compare => exact absurd hf nofun
  | register | jump | loadLatch | storeByte | storeVsync | push | pop | call | ret | halt => exact sameFlags_refl s

theorem sameFixed : SameFixed s t := by
  cases h <;> exact ⟨rfl, rfl, rfl, rfl, rfl⟩

theorem halted_iff : t.halted = true ↔ s.halted = true ∨ i = .halt := by
  cases h with
  | register _ on | result _ on | jump _ on => exact (or_iff_left on.notHalt).symm
  | halt => exact iff_of_true rfl (.inr rfl)
  | compare | loadLatch | storeByte | storeVsync | push | pop | call | ret => exact (or_iff_left nofun).symm

theorem sp_eq : (t.sp.toNat : Int) = (s.sp.toNat : Int) + spMove i := by
  cases h with
  | register _ on | result _ on | jump _ on =>
    rw [on.sp, Int.add_zero]
    rfl
  | push _ _ room =>
    rw [advance_sp, setSp_sp, spMove]
    bv_omega
  | pop _ _ held =>
    rw [advance_sp, setReg_sp, setSp_sp, spMove]
    bv_omega
  | call _ _ _ room =>
    rw [setPc_sp, setSp_sp, spMove]
    bv_omega
  | ret _ held =>
    rw [setPc_sp, setSp_sp, spMove]
    bv_omega
  | compare | loadLatch | storeByte | storeVsync | halt => exact (Int.add_zero _).symm

theorem sameMemoryOutside : SameMemoryOutside (storedAddrs i s) s t := by
  cases h with
  | storeByte a storable =>
    rw [storable.storedAddrs]
    exact sameMemoryOutside_writeStorage s s.addrPair (s.reg a)
  | push _ v => exact sameMemoryOutside_writeStorage s s.sp v
  | call _ v w => exact sameMemoryOutside_writeStorage_two s s.sp (s.sp - 1#16) v w
  | register | result | compare | jump | loadLatch | storeVsync | pop | ret | halt =>
    exact (sameMemory_of_mem_eq rfl rfl).outside _

theorem devices_cases : t.devices = s.devices ∨
    ((∃ a, i = .load a) ∧ s.addrPair = 0xBF01 ∧ t.devices = { s.devices with keysPressed := 0 }) ∨
    ((∃ a, i = .store a ∧ s.reg a = 1) ∧ s.addrPair = 0xBF23 ∧ t.devices = { s.devices with vsync := 1 }) := by
  cases h with
  | loadLatch a _ addr => exact .inr (.inl ⟨⟨a, rfl⟩, addr, rfl⟩)
  | storeVsync a addr one => exact .inr (.inr ⟨⟨a, rfl, one⟩, addr, rfl⟩)
  | register | result | compare | jump | storeByte | push | pop | call | ret | halt => exact .inl rfl

end Completes

/-- Settles O46: by the way the instruction completes, Ra is its first operand where a register is written at all. -/
theorem onlyTheFirstOperandIsWritten : Obligations.OnlyTheFirstOperandIsWritten :=
  fun _ _ _ h => (completes_of_exec h).sameRegsBut

/-- Settles O48: the four that move SP do so within bounds, so the move on words is the move on integers. -/
theorem onlyStackInstructionsMoveSp : Obligations.OnlyStackInstructionsMoveSp :=
  fun _ _ _ h => (completes_of_exec h).sp_eq

/-- Settles O49: STORE and PUSH write one byte, CALL two, at the addresses their rules name. -/
theorem onlyStorePushAndCallWriteMemory : Obligations.OnlyStorePushAndCallWriteMemory :=
  fun _ _ _ h => (completes_of_exec h).sameMemoryOutside

/-- Settles O50: of the ways to complete, two write the devices. -/
theorem devicesChangeOnlyByTheTwoSideEffects : Obligations.DevicesChangeOnlyByTheTwoSideEffects :=
  fun _ _ _ h => (completes_of_exec h).devices_cases

/-- Settles O51: of the ways to complete, one writes HALTED, and none TICK or the model's own fields. -/
theorem onlyHaltSetsHalted : Obligations.OnlyHaltSetsHalted :=
  fun _ _ _ h => ⟨(completes_of_exec h).halted_iff, (completes_of_exec h).sameFixed⟩

/-- Settles O31: HALT passes on and sets HALTED. -/
theorem haltSetsHalted : Obligations.HaltSetsHalted := by
  intro s
  exact ⟨_, exec_halt s, rfl, pcPassed_of_pc_eq rfl, ⟨rfl, rfl⟩, ⟨rfl, rfl, rfl, rfl, rfl⟩, rfl, rfl,
    sameMemory_of_mem_eq rfl rfl, sameRegsBut_of_regs_eq rfl none⟩

/-! ### Faults (R94) -/

/-- `f` is a fault that the table of R94 gives the instruction `i` in the state `s`. -/
def ListedFault (i : Instr) (s : State) (f : Fault) : Prop :=
  ((∃ a, i = .load a) ∧ (f = .invalidMemoryAccess .load s.addrPair ∨ f = .undefinedMMIOAccess .load s.addrPair none)) ∨
  (∃ a, i = .store a ∧ (f = .invalidMemoryAccess .store s.addrPair ∨
    f = .undefinedMMIOAccess .store s.addrPair (some (s.reg a)))) ∨
  (((∃ a, i = .push a) ∨ ∃ d, i = .call d) ∧ f = .stackOverflow s.sp) ∨
  (((∃ a, i = .pop a) ∨ i = .ret) ∧ f = .stackUnderflow s.sp)

/-- Only the six instructions of R94's table have a fault listed. -/
theorem ListedFault.mayFault {i : Instr} {s : State} {f : Fault} (h : ListedFault i s f) : mayFault i = true := by
  rcases h with ⟨⟨a, rfl⟩, -⟩ | ⟨a, rfl, -⟩ | ⟨⟨a, rfl⟩ | ⟨d, rfl⟩, -⟩ | ⟨⟨a, rfl⟩ | rfl, -⟩ <;> rfl

/-- Every instruction completes or answers a fault of its own; none is refused (R94). -/
theorem exec_next_or_fault (i : Instr) (s : State) :
    (∃ t, exec i s = .next t) ∨ ∃ f, exec i s = .fault f ∧ ListedFault i s f := by
  cases i with
  | load a =>
    rcases exec_load_cases a s with ⟨-, he⟩ | ⟨d, -, he⟩ | ⟨-, -, he⟩ | ⟨-, -, he⟩
    · exact .inl ⟨_, he⟩
    · exact .inl ⟨_, he⟩
    · exact .inr ⟨_, he, .inl ⟨⟨a, rfl⟩, .inr rfl⟩⟩
    · exact .inr ⟨_, he, .inl ⟨⟨a, rfl⟩, .inl rfl⟩⟩
  | store a =>
    rcases exec_store_cases a s with ⟨-, he⟩ | ⟨-, -, he⟩ | ⟨-, -, he⟩ | ⟨-, he⟩
    · exact .inl ⟨_, he⟩
    · exact .inl ⟨_, he⟩
    · exact .inr ⟨_, he, .inr (.inl ⟨a, rfl, .inr rfl⟩)⟩
    · exact .inr ⟨_, he, .inr (.inl ⟨a, rfl, .inl rfl⟩)⟩
  | push a =>
    rw [exec_push_eq]
    split
    · exact .inr ⟨_, rfl, .inr (.inr (.inl ⟨.inl ⟨a, rfl⟩, rfl⟩))⟩
    · exact .inl ⟨_, rfl⟩
  | call d =>
    rw [exec_call_eq]
    split
    · exact .inr ⟨_, rfl, .inr (.inr (.inl ⟨.inr ⟨d, rfl⟩, rfl⟩))⟩
    · exact .inl ⟨_, rfl⟩
  | pop a =>
    rw [exec_pop_eq]
    split
    · exact .inr ⟨_, rfl, .inr (.inr (.inr ⟨.inl ⟨a, rfl⟩, rfl⟩))⟩
    · exact .inl ⟨_, rfl⟩
  | ret =>
    rw [exec_ret_eq]
    split
    · exact .inr ⟨_, rfl, .inr (.inr (.inr ⟨.inr rfl, rfl⟩))⟩
    · exact .inl ⟨_, rfl⟩
  | _ => exact .inl ⟨_, rfl⟩

/-- Settles O52: an instruction that does not complete answers a listed fault, so one with none listed completes. -/
theorem faultsAreTheListedOnes : Obligations.FaultsAreTheListedOnes := by
  intro i s
  rcases exec_next_or_fault i s with ⟨t, he⟩ | ⟨f, he, hf⟩
  · exact ⟨fun _ => ⟨t, he⟩, by simp [he], by simp [he]⟩
  · refine ⟨fun hnever => absurd (hnever.symm.trans hf.mayFault) nofun, by simp [he], fun f' hf' => ?_⟩
    cases he.symm.trans hf'
    exact hf

end Sys2Proof.Machine
end

section
/-! The flags (spec/10_state.md R15): the twelve writers, and that nothing but the listed readers reads a flag. -/

namespace Sys2Proof.Machine

/-- Both flags given. -/
def State.withFlags (s : State) (z c : Bool) : State := { s with z := z, c := c }

/-- LOAD's read does not see the flags. -/
theorem memLoad_withFlags (s : State) (z c : Bool) (addr : Word) :
    memLoad (s.withFlags z c) addr = (memLoad s addr).map fun vs => (vs.1, vs.2.withFlags z c) := by
  unfold memLoad
  cases regionOf addr with
  | mmio =>
    change mmioRead (s.withFlags z c) addr = (mmioRead s addr).map _
    unfold mmioRead
    cases deviceRegAt addr with
    | none => rfl
    | some d => cases d <;> rfl
  | extended =>
    change (if s.config.extRegionIsRam then _ else _) = Except.map _ (if s.config.extRegionIsRam then _ else _)
    split <;> rfl
  | signature | code | data | stack | framebuffer => rfl

/-- STORE's write does not see the flags. -/
theorem memStore_withFlags (s : State) (z c : Bool) (addr : Word) (v : Byte) :
    memStore (s.withFlags z c) addr v = (memStore s addr v).map fun t => t.withFlags z c := by
  unfold memStore
  cases regionOf addr with
  | mmio =>
    change mmioWrite (s.withFlags z c) addr v = (mmioWrite s addr v).map _
    unfold mmioWrite
    split <;> rfl
  | extended =>
    change (if s.config.extRegionIsRam then _ else _) = Except.map _ (if s.config.extRegionIsRam then _ else _)
    split <;> rfl
  | signature | code | data | stack | framebuffer => rfl

/-- Changing flags that an instruction does not read changes nothing but the flags themselves, and not these where the
instruction writes them (R15). -/
theorem exec_withFlags {i : Instr} {s t : State} {z c : Bool} (hz : readsZ i = true → z = s.z)
    (hc : readsC i = true → c = s.c) (h : exec i s = .next t) :
    exec i (s.withFlags z c) = .next (if writesFlags i then t else t.withFlags z c) := by
  cases i with
  | load a =>
    rw [exec_load] at h ⊢
    change advanceOrFault ((memLoad (s.withFlags z c) s.addrPair).map _) = _
    rw [memLoad_withFlags]
    cases hm : memLoad s s.addrPair with
    | error f => cases hm ▸ h
    | ok vs => cases hm ▸ h; rfl
  | store a =>
    rw [exec_store] at h ⊢
    change advanceOrFault (memStore (s.withFlags z c) s.addrPair (s.reg a)) = _
    rw [memStore_withFlags]
    cases hm : memStore s s.addrPair (s.reg a) with
    | error f => cases hm ▸ h
    | ok u => cases hm ▸ h; rfl
  | push a =>
    rw [exec_push_eq] at h
    split at h <;> cases h
    exact exec_push_of_le a (s := s.withFlags z c) (Nat.le_of_not_lt ‹_›)
  | pop a =>
    rw [exec_pop_eq] at h
    split at h <;> cases h
    exact exec_pop_of_lt a (s := s.withFlags z c) (Nat.lt_of_not_le ‹_›)
  | call addr16 =>
    rw [exec_call_eq] at h
    split at h <;> cases h
    exact exec_call_of_le addr16 (s := s.withFlags z c) (Nat.le_of_not_lt ‹_›)
  | ret =>
    rw [exec_ret_eq] at h
    split at h <;> cases h
    exact exec_ret_of_lt (s := s.withFlags z c) (Nat.lt_of_not_le ‹_›)
  | adc | sbc | jc | jnc =>
    cases hc rfl
    cases h
    rfl
  | jz | jnz =>
    cases hz rfl
    cases h
    rfl
  | loadi | mov | add | sub | inc | dec | and | or | xor | cmp | shl | shr | jmp | halt =>
    cases h
    rfl

/-- An instruction that writes an operation's outcome sets Z by the result it leaves in Ra, and C by the carry (R64). -/
theorem flags_of_writeResult {s t : State} {a : Reg} {o : AluOut} (h : s.writeResult a o = .next t) :
    (t.z = true ↔ t.reg a = 0) ∧ t.c = o.carry := by
  cases h
  simp [zeroFlag]

/-- The PC a jump leaves, by its condition (R81). -/
theorem jumpPc_eq_ite (s : State) (taken : Bool) (target : Word) :
    s.jumpPc taken target = if taken then target else s.pc + 3#16 := by
  cases taken <;> rfl

/-- Settles O47: the writers by the outcome they write, the jumps by their condition, the others by the way they complete,
and the readers by the change of flags that exec does not see. -/
theorem flagWritersAndReaders : Obligations.FlagWritersAndReaders := by
  refine ⟨fun a b s t => ?writers, fun addr16 s t => ?jumps, fun i s t hf h => (completes_of_exec h).sameFlags hf,
    fun i s t v hr h => ?readsZ, fun i s t v hr h => ?readsC⟩
  case writers =>
    refine ⟨fun h => ?add, fun h => ?adc, fun h => ?sub, fun h => ?sbc, fun h => ?cmp, flags_of_writeResult,
      flags_of_writeResult, flags_of_writeResult, flags_of_writeResult, flags_of_writeResult, flags_of_writeResult,
      flags_of_writeResult⟩
    case cmp =>
      cases h
      exact ⟨zeroFlag_subOut_iff _ _, subOut_carry_iff _ _ false⟩
    all_goals obtain ⟨hz, hc⟩ := flags_of_writeResult h
    case add => exact ⟨hz, hc ▸ addOut_carry_iff _ _ false⟩
    case adc => exact ⟨hz, hc ▸ addOut_carry_iff _ _ s.c⟩
    case sub => exact ⟨hz, hc ▸ subOut_carry_iff _ _ false⟩
    case sbc => exact ⟨hz, hc ▸ subOut_carry_iff _ _ s.c⟩
  case jumps =>
    refine ⟨fun h => ?jz, fun h => ?jnz, fun h => ?jc, fun h => ?jnc⟩ <;> cases h <;> rw [setPc_pc, jumpPc_eq_ite]
    case jnz => cases s.z <;> rfl
    case jnc => cases s.c <;> rfl
  case readsZ =>
    have hexec := exec_withFlags (z := v) (c := s.c) (fun h' => absurd (hr.symm.trans h') nofun) (fun _ => rfl) h
    refine hexec.trans (congrArg Host.Outcome.next ?_)
    cases hf : writesFlags i with
    | true => rfl
    | false => exact congrArg (t.withFlags v) ((completes_of_exec h).sameFlags hf).2.symm
  case readsC =>
    have hexec := exec_withFlags (z := s.z) (c := v) (fun _ => rfl) (fun h' => absurd (hr.symm.trans h') nofun) h
    refine hexec.trans (congrArg Host.Outcome.next ?_)
    cases hf : writesFlags i with
    | true => rfl
    | false => exact congrArg (t.withFlags · v) ((completes_of_exec h).sameFlags hf).1.symm

end Sys2Proof.Machine
end

section
/-! SUPPORT. The turns of a step (spec/10_state.md R21, R22, spec/60_exceptions.md R101, R118): whose turn it is, and what
the CPU's turn and the host's turn do. -/

namespace Sys2Proof.Machine

/-! ### Whose turn it is -/

/-- The CPU starts from the state with some of the turns taken off. -/
theorem CpuTurn.eq_setSchedule {s s' : State} (h : CpuTurn s s') : s' = s.setSchedule s.dueTurns.tail := by
  rcases h with ⟨hdue, rfl⟩ | ⟨rest, hdue, rfl⟩
  · have hnone : s'.schedule = [] := by
      cases hs : s'.schedule with
      | nil => rfl
      | cons turn rest => simp [State.dueTurns, hs] at hdue
    rw [hdue, List.tail_nil, ← hnone]
    rfl
  · rw [hdue, List.tail_cons]

/-- The CPU's turn is not the host's (R22). -/
theorem CpuTurn.dueTurns_ne {s s' : State} (h : CpuTurn s s') (m : HostMove) (rest : List Turn) :
    s.dueTurns ≠ .host m :: rest := by
  rcases h with ⟨hdue, -⟩ | ⟨rest', hdue, -⟩ <;> rw [hdue] <;> nofun

theorem step_of_cpuTurn {s s' : State} (h : CpuTurn s s') : step s = cpuStep s' := by
  rcases h with ⟨hdue, rfl⟩ | ⟨rest, hdue, rfl⟩ <;> rw [step, takeTurn, hdue]

theorem step_of_host {s : State} {m : HostMove} {rest : List Turn} (h : s.dueTurns = .host m :: rest) :
    step s = .next ((s.setSchedule rest).afterHostMove m) := by
  rw [step, takeTurn, h]

/-- Every turn is the host's or the CPU's (R22). -/
theorem host_or_cpuTurn (s : State) : (∃ m rest, s.dueTurns = .host m :: rest) ∨ ∃ s', CpuTurn s s' := by
  cases hdue : s.dueTurns with
  | nil => exact .inr ⟨s, .inl ⟨hdue, rfl⟩⟩
  | cons turn rest =>
    cases turn with
    | cpu => exact .inr ⟨_, .inr ⟨rest, hdue, rfl⟩⟩
    | host m => exact .inl ⟨m, rest, rfl⟩

/-! ### The CPU's turn -/

/-- A CPU that is halted has no step (R17). -/
theorem cpuStep_of_halted {s : State} (h : s.halted = true) : cpuStep s = .refused .halted := by
  rw [cpuStep, if_pos h]

/-- A fault of the fetch is the step's (R97, R101). -/
theorem cpuStep_of_fetch_error {s : State} {f : Fault} (hh : s.halted = false) (hf : fetch s = .error f) :
    cpuStep s = .fault f := by
  simp [cpuStep, hh, hf, raiseFault]

/-- Bytes that are no instruction are the step's fault (R95, R96). -/
theorem cpuStep_of_decode_error {s : State} {b : InstrBytes} {e : DecodeError} (hh : s.halted = false)
    (hf : fetch s = .ok b) (hd : decode b = .error e) : cpuStep s = .fault (decodeFault s.pc e) := by
  simp [cpuStep, hh, hf, hd, raiseFault]

/-- Bytes that are an instruction are executed and counted (R21). -/
theorem cpuStep_of_decode_ok {s : State} {b : InstrBytes} {i : Instr} (hh : s.halted = false) (hf : fetch s = .ok b)
    (hd : decode b = .ok i) : cpuStep s = countTick (exec i s) := by
  simp [cpuStep, hh, hf, hd]

/-- The first of the three fetches that is not in the code segment is the one reported (R101). -/
theorem fetch_error (s : State) :
    (¬ InCode s.pc → fetch s = .error (.invalidMemoryAccess .fetch s.pc)) ∧
    (InCode s.pc → ¬ InCode (s.pc + 1#16) → fetch s = .error (.invalidMemoryAccess .fetch (s.pc + 1#16))) ∧
    (InCode s.pc → InCode (s.pc + 1#16) → ¬ InCode (s.pc + 2#16) →
      fetch s = .error (.invalidMemoryAccess .fetch (s.pc + 2#16))) := by
  have hok : ∀ {addr}, InCode addr → memFetch s addr = .ok (s.readStorage addr) :=
    fun h => (memFetch_ok_iff s _ _).2 ⟨h, rfl⟩
  have herror : ∀ {addr}, ¬ InCode addr → memFetch s addr = .error (.invalidMemoryAccess .fetch addr) :=
    fun h => (memFetch_error_iff s _ _).2 ⟨h, rfl⟩
  refine ⟨fun h0 => ?_, fun h0 h1 => ?_, fun h0 h1 h2 => ?_⟩
  · simp [fetch, herror h0]
  · simp [fetch, hok h0, herror h1]
  · simp [fetch, hok h0, hok h1, herror h2]

/-- Everything a step that answers has done: a move of the host, or one instruction and its tick (R21, R22). -/
theorem step_next_cases {s t : State} (h : step s = .next t) :
    (∃ m rest, s.dueTurns = .host m :: rest ∧ t = (s.setSchedule rest).afterHostMove m) ∨
    (∃ i u, CpuTurn s (s.setSchedule s.dueTurns.tail) ∧ exec i (s.setSchedule s.dueTurns.tail) = .next u ∧
      t = u.setTick (u.tick + 1#16)) := by
  rcases (step_next_iff s t).1 h with hhost | ⟨s', hcpu, hstep⟩
  · exact .inl hhost
  · obtain ⟨-, b, i, u, -, -, hexec, rfl⟩ := (cpuStep_next_iff s' t).1 hstep
    obtain rfl := hcpu.eq_setSchedule
    exact .inr ⟨i, u, hcpu, hexec, rfl⟩

/-- The cycle refuses nothing but the turn of a halted CPU (R17, R94). -/
theorem step_refused {s : State} {r : Refusal} (h : step s = .refused r) : r = .halted := by
  rcases host_or_cpuTurn s with ⟨m, rest, hdue⟩ | ⟨s', hcpu⟩
  · cases (step_of_host hdue).symm.trans h
  · rw [step_of_cpuTurn hcpu, cpuStep] at h
    split at h
    · cases h
      rfl
    · split at h
      · cases h
      · split at h
        · cases h
        next i _ =>
          rcases exec_next_or_fault i s' with ⟨t, he⟩ | ⟨f, he, -⟩ <;> rw [he] at h <;> cases h

end Sys2Proof.Machine
end

section
/-! The cycle and the host (spec/10_state.md R17, R18, R21, R22, spec/20_memory.md R35, spec/60_exceptions.md R95 to R97,
R101, R108, R114, R118). -/

namespace Sys2Proof.Machine

/-- Settles O32: HALTED is what the CPU's step tests first, and no host move touches it. -/
theorem haltedCpuHasNoStep : Obligations.HaltedCpuHasNoStep := by
  intro s hh
  refine ⟨fun s' hcpu => ?_, fun m rest hdue => ⟨_, step_of_host hdue, hh⟩⟩
  rw [step_of_cpuTurn hcpu]
  exact cpuStep_of_halted (hcpu.eq_setSchedule ▸ hh)

/-- Settles O33: three addresses in the code segment are fetched, and the turn taken changes neither them nor PC. -/
theorem stepRunsTheDecodedInstruction : Obligations.StepRunsTheDecodedInstruction := by
  intro s s' i hcpu hh hlow hhigh hd
  rw [step_of_cpuTurn hcpu]
  obtain rfl := hcpu.eq_setSchedule
  have hcode : InCode s.pc ∧ InCode (s.pc + 1#16) ∧ InCode (s.pc + 2#16) := by
    simp only [InCode]
    bv_omega
  obtain ⟨h0, h1, h2⟩ := hcode
  have hfetch := (fetch_ok_iff (s.setSchedule s.dueTurns.tail) _).2 ⟨h0, h1, h2, rfl⟩
  rw [cpuStep_of_decode_ok (s := s.setSchedule s.dueTurns.tail) hh hfetch hd]
  refine ⟨fun t ht => ?_, fun f hf => ?_⟩
  · rw [ht, countTick]
  · rw [hf, countTick]

/-- Settles O34: the three fetches in order, and the decoder only after them. -/
theorem fetchAndDecodeFaultsInOrder : Obligations.FetchAndDecodeFaultsInOrder := by
  intro s s' hcpu hh
  rw [step_of_cpuTurn hcpu]
  obtain rfl := hcpu.eq_setSchedule
  obtain ⟨hfirst, hsecond, hthird⟩ := fetch_error (s.setSchedule s.dueTurns.tail)
  refine ⟨fun h0 => cpuStep_of_fetch_error hh (hfirst h0), fun h0 h1 => cpuStep_of_fetch_error hh (hsecond h0 h1),
    fun h0 h1 h2 => cpuStep_of_fetch_error hh (hthird h0 h1 h2), fun h0 h1 h2 => ?_⟩
  have hfetch := (fetch_ok_iff (s.setSchedule s.dueTurns.tail) _).2 ⟨h0, h1, h2, rfl⟩
  exact ⟨fun op hd => cpuStep_of_decode_error (s := s.setSchedule s.dueTurns.tail) hh hfetch hd,
    fun b hd => cpuStep_of_decode_error (s := s.setSchedule s.dueTurns.tail) hh hfetch hd⟩

/-- Settles O35: a step of the CPU that answers has fetched three bytes of the code segment, the last of which bounds
PC. -/
theorem cpuExecutesOnlyFromTheCodeSegment : Obligations.CpuExecutesOnlyFromTheCodeSegment := by
  intro s s' t hcpu h
  rw [step_of_cpuTurn hcpu] at h
  obtain rfl := hcpu.eq_setSchedule
  obtain ⟨-, b, -, -, hfetch, -⟩ := (cpuStep_next_iff _ t).1 h
  obtain ⟨⟨hlow, hhigh⟩, -, ⟨-, hlast⟩, -⟩ := (fetch_ok_iff _ b).1 hfetch
  rw [setSchedule_pc] at hlow hhigh hlast
  exact ⟨hlow, by bv_omega⟩

/-- Settles O36: an instruction leaves TICK for the cycle to count once; a host move leaves it. -/
theorem tickCountsCompletedInstructions : Obligations.TickCountsCompletedInstructions := by
  intro s t h
  rcases step_next_cases h with ⟨m, rest, hdue, rfl⟩ | ⟨i, u, hcpu, hexec, rfl⟩
  · exact ⟨fun s' hcpu => absurd hdue (hcpu.dueTurns_ne m rest), fun _ _ _ => rfl⟩
  · have htick : u.tick = s.tick := (completes_of_exec hexec).sameFixed.tick
    refine ⟨fun s' _ => ?_, fun m rest hdue => ?_⟩
    · rw [setTick_tick, htick, BitVec.toNat_add]
      rfl
    · exact absurd hdue (hcpu.dueTurns_ne m rest)

/-- A seven-bit coordinate is in the value set of its register (R109, R110). -/
theorem setWidth_toNat_of_coordinate (x : BitVec 7) : (x.setWidth 8).toNat = x.toNat := by
  rw [BitVec.toNat_setWidth]
  omega

/-- Settles O37: each move is an update of the device registers alone. -/
theorem hostTurnChangesOnlyDevices : Obligations.HostTurnChangesOnlyDevices := by
  intro s m rest hdue
  refine ⟨_, step_of_host hdue, rfl, ?_⟩
  cases m with
  | keyChange k n => exact ⟨by rintro _ _ ⟨⟩; rfl, nofun, nofun, nofun⟩
  | mouseChange x y b =>
    refine ⟨nofun, ?_, nofun, nofun⟩
    rintro _ _ _ ⟨⟩
    exact ⟨rfl, setWidth_toNat_of_coordinate x, setWidth_toNat_of_coordinate y⟩
  | frameTick k => exact ⟨nofun, nofun, by rintro _ ⟨⟩; rfl, nofun⟩
  | processSwap => exact ⟨nofun, nofun, nofun, fun _ => rfl⟩

/-- Settles O38: the first LOAD leaves R6, R7 and an empty latch, into which the host's presses are ORed. -/
theorem keysPressedIsConsumedByALoad : Obligations.KeysPressedIsConsumedByALoad := by
  intro a b k n s haddr h6 h7
  have hlatch : deviceRegAt s.addrPair = some .keysPressed := (deviceRegAt_keysPressed_iff _).2 haddr
  refine ⟨_, _, exec_load_of_device a hlatch, reg_setReg_same _ a _, rfl,
    exec_load_of_device (d := .keysPressed) b ?again, ?value, rfl⟩
  case again =>
    rw [← hlatch]
    exact congrArg deviceRegAt (addrPair_congr (reg_setReg_other _ a .r6 _ h6.symm) (reg_setReg_other _ a .r7 _ h7.symm))
  case value =>
    rw [reg_advance, reg_setReg_same]
    exact BitVec.zero_or

/-- Settles O39: neither the STORE nor the swap moves R6 and R7, so both LOADs read VSYNC. -/
theorem vsyncReadsOneUntilTheSwapIsProcessed : Obligations.VsyncReadsOneUntilTheSwapIsProcessed := by
  intro a b s haddr hv
  have hvsync : deviceRegAt s.addrPair = some .vsync := (deviceRegAt_vsync_iff _).2 haddr
  exact ⟨_, _, _, exec_store_vsync haddr hv, exec_load_of_device b hvsync, reg_setReg_same _ b _,
    exec_load_of_device b hvsync, reg_setReg_same _ b _, sameMemory_of_mem_eq rfl rfl⟩

end Sys2Proof.Machine
end

section
/-! SUPPORT. The invariant of runs (spec/10_state.md R24): it speaks of memory, SP and the devices only, and each update
of these that a step makes keeps it. -/

namespace Sys2Proof.Machine

namespace State.Inv

variable {s : State} (h : s.Inv)
include h

/-- The invariant is one of memory, SP and the device registers. -/
theorem congr {t : State} (hmem : t.mem = s.mem) (hsp : t.sp = s.sp) (hdevices : t.devices = s.devices) : t.Inv where
  memCanonical := hmem ▸ h.memCanonical
  noDeviceStorage := hmem ▸ h.noDeviceStorage
  spLow := hsp ▸ h.spLow
  spHigh := hsp ▸ h.spHigh
  mouseX := hdevices ▸ h.mouseX
  mouseY := hdevices ▸ h.mouseY
  vsync := hdevices ▸ h.vsync

/-- A byte written outside the device registers keeps it (R20, R25). -/
theorem writeStorage {addr : Word} (v : Byte) (haddr : addr.toNat < 0xBF00 ∨ 0xC000 ≤ addr.toNat) :
    (s.writeStorage addr v).Inv where
  memCanonical := wf_writeStorage s addr v h.memCanonical
  noDeviceStorage := fun b hlow hhigh => by
    rw [writeStorage_mem, lookup_insert_other _ _ _ _ (by omega)]
    exact h.noDeviceStorage b hlow hhigh
  spLow := h.spLow
  spHigh := h.spHigh
  mouseX := h.mouseX
  mouseY := h.mouseY
  vsync := h.vsync

/-- SP moved within the stack range keeps it (R24 (a)). -/
theorem setSp {sp : Word} (hlow : 0x8000 ≤ sp.toNat) (hhigh : sp.toNat ≤ 0xBEFF) : (s.setSp sp).Inv where
  memCanonical := h.memCanonical
  noDeviceStorage := h.noDeviceStorage
  spLow := hlow
  spHigh := hhigh
  mouseX := h.mouseX
  mouseY := h.mouseY
  vsync := h.vsync

/-- Device registers in their value sets keep it (R19). -/
theorem setDevices {d : Devices} (hx : d.mouseX.toNat ≤ 127) (hy : d.mouseY.toNat ≤ 127)
    (hvsync : d.vsync = 0#8 ∨ d.vsync = 1#8) : (s.setDevices d).Inv where
  memCanonical := h.memCanonical
  noDeviceStorage := h.noDeviceStorage
  spLow := h.spLow
  spHigh := h.spHigh
  mouseX := hx
  mouseY := hy
  vsync := hvsync

end State.Inv

/-- Every move of the host keeps the invariant (R118). -/
theorem State.Inv.afterHostMove {s : State} (h : s.Inv) (m : HostMove) : (s.afterHostMove m).Inv := by
  cases m with
  | keyChange | frameTick => exact h.setDevices h.mouseX h.mouseY h.vsync
  | mouseChange x y b =>
    refine h.setDevices ?_ ?_ h.vsync
    · exact (setWidth_toNat_of_coordinate x).trans_le (Nat.le_of_lt_succ x.isLt)
    · exact (setWidth_toNat_of_coordinate y).trans_le (Nat.le_of_lt_succ y.isLt)
  | processSwap =>
    rw [State.afterHostMove, Devices.afterMove]
    split
    · exact h.setDevices h.mouseX h.mouseY (.inl rfl)
    · exact h

/-- STORE's storage lies outside the device registers (R20, R28). -/
theorem StorableStorage.outside_mmio {s : State} {addr : Word} (h : StorableStorage s addr) :
    addr.toNat < 0xBF00 ∨ 0xC000 ≤ addr.toNat := by
  rcases h with h | h | h | h <;> omega

namespace Completes

variable {i : Instr} {s t : State} (h : Completes s i t)
include h

/-- Every instruction that completes keeps the invariant: its bounds on ADDR and SP are what the updates need. -/
theorem inv (hinv : s.Inv) : t.Inv := by
  have hlow := hinv.spLow
  have hhigh := hinv.spHigh
  cases h with
  | register | result | compare | jump | halt => exact hinv.congr rfl rfl rfl
  | loadLatch =>
    exact (hinv.setDevices (d := { s.devices with keysPressed := 0#8 }) hinv.mouseX hinv.mouseY hinv.vsync).congr
      rfl rfl rfl
  | storeByte a storable => exact (hinv.writeStorage _ storable.outside_mmio).congr rfl rfl rfl
  | storeVsync =>
    exact (hinv.setDevices (d := { s.devices with vsync := 1#8 }) hinv.mouseX hinv.mouseY (.inr rfl)).congr rfl rfl rfl
  | push a v room =>
    exact ((hinv.writeStorage v (by omega)).setSp (sp := s.sp - 1#16) (by bv_omega) (by bv_omega)).congr rfl rfl rfl
  | pop a v held => exact (hinv.setSp (sp := s.sp + 1#16) (by bv_omega) (by bv_omega)).congr rfl rfl rfl
  | call addr16 v w room =>
    have hwritten : ((s.writeStorage s.sp v).writeStorage (s.sp - 1#16) w).Inv :=
      (hinv.writeStorage v (by omega)).writeStorage w (by bv_omega)
    exact (hwritten.setSp (sp := s.sp - 2#16) (by bv_omega) (by bv_omega)).congr rfl rfl rfl
  | ret v held => exact (hinv.setSp (sp := s.sp + 2#16) (by bv_omega) (by bv_omega)).congr rfl rfl rfl

/-- No instruction stores a byte in the signature or in the code segment (R24 (b), R38). -/
theorem storedAddrs_above_code (hsp : 0x8000 ≤ s.sp.toNat) {addr : Word} (haddr : addr ∈ storedAddrs i s) :
    0x2000 ≤ addr.toNat := by
  cases h with
  | register _ on | result _ on | jump _ on => exact absurd (on.stored s ▸ haddr) List.not_mem_nil
  | storeByte a storable =>
    rw [storable.storedAddrs, List.mem_singleton] at haddr
    exact haddr ▸ storable.above_code
  | storeVsync a vsyncAddr =>
    rw [storedAddrs, vsyncAddr] at haddr
    exact absurd haddr List.not_mem_nil
  | push =>
    rw [storedAddrs, List.mem_singleton] at haddr
    rw [haddr]
    omega
  | call _ _ _ room =>
    rw [storedAddrs, List.mem_cons, List.mem_singleton] at haddr
    rcases haddr with rfl | rfl
    · omega
    · bv_omega
  | compare | loadLatch | pop | ret | halt => exact absurd haddr List.not_mem_nil

/-- The signature and the code segment read as before after every instruction that completes (R24 (b)). -/
theorem image_same (hsp : 0x8000 ≤ s.sp.toNat) {addr : Word} (haddr : addr.toNat ≤ 0x1FFF) :
    t.readStorage addr = s.readStorage addr :=
  h.sameMemoryOutside addr fun hmem => absurd (h.storedAddrs_above_code hsp hmem) (by omega)

end Completes

end Sys2Proof.Machine
end

section
/-! The invariant of every step, and the image that no run changes (spec/10_state.md R24, spec/20_memory.md R38). -/

namespace Sys2Proof.Machine

/-- Settles O53: a host move and an instruction each keep it, and the turns and TICK are no part of it. -/
theorem stepKeepsTheInvariant : Obligations.StepKeepsTheInvariant := by
  intro s t hinv h
  rcases step_next_cases h with ⟨m, rest, -, rfl⟩ | ⟨i, u, -, hexec, rfl⟩
  · exact State.Inv.afterHostMove (s := s.setSchedule rest) (hinv.congr rfl rfl rfl) m
  · have hu : u.Inv := (completes_of_exec hexec).inv (hinv.congr rfl rfl rfl)
    exact hu.congr rfl rfl rfl

/-- A step from a state that meets the invariant leaves the signature and the code segment reading as before. -/
theorem image_same_of_step {s t : State} (hinv : s.Inv) (h : step s = .next t) {addr : Word}
    (haddr : addr.toNat ≤ 0x1FFF) : t.readStorage addr = s.readStorage addr := by
  rcases step_next_cases h with ⟨m, rest, -, rfl⟩ | ⟨i, u, -, hexec, rfl⟩
  · rfl
  · exact (completes_of_exec hexec).image_same hinv.spLow haddr

/-- Settles O54: by induction over the turns, each of which keeps the invariant and the image. -/
theorem runsNeverChangeTheLoadedImage : Obligations.RunsNeverChangeTheLoadedImage := by
  intro n
  induction n with
  | zero =>
    intro s t hinv h
    cases h
    exact ⟨hinv, fun _ _ => rfl⟩
  | succ n ih =>
    intro s t hinv h
    obtain ⟨u, hstep, hrest⟩ := (runs_succ_next_iff n s t).1 h
    obtain ⟨htinv, himage⟩ := ih u t (stepKeepsTheInvariant s u hinv hstep) hrest
    exact ⟨htinv, fun addr haddr => (himage addr haddr).trans (image_same_of_step hinv hstep haddr)⟩

end Sys2Proof.Machine
end

section
/-! Reset and launch, and the pixels of the framebuffer (spec/10_state.md R23, spec/70_reset_and_hazards.md R120, R123,
spec/60_exceptions.md R117). -/

namespace Sys2Proof.Machine

/-- Every launch meets the invariant (R23, R24). -/
theorem launch_inv (config : Config) (mem0 : List Host.Cell) (inputs : Inputs) (schedule routine : List Turn)
    (launchId : Nat) : (State.launch config mem0 inputs schedule routine launchId).Inv where
  memCanonical := wf_ofCells mem0
  noDeviceStorage := fun addr hlow hhigh => (lookup_ofCells mem0 addr.toNat).trans (if_neg (by omega))
  spLow := (by decide : 0x8000 ≤ (0xBEFF#16).toNat)
  spHigh := (by decide : (0xBEFF#16).toNat ≤ 0xBEFF)
  mouseX := (setWidth_toNat_of_coordinate inputs.mouseX).trans_le (Nat.le_of_lt_succ inputs.mouseX.isLt)
  mouseY := (setWidth_toNat_of_coordinate inputs.mouseY).trans_le (Nat.le_of_lt_succ inputs.mouseY.isLt)
  vsync := .inl rfl

/-- Every general register is 0 at reset (R23). -/
theorem reg_zero (r : Reg) : Regs.zero.get r = 0 := by
  cases r <;> rfl

/-- Settles O55: a launch is the record that R23 describes, and State.reset is one of the launches. -/
theorem resetValues : Obligations.ResetValues := by
  refine ⟨fun config mem0 inputs schedule routine launchId => ?launch, rfl, rfl, reg_zero, rfl, rfl, rfl, rfl, rfl,
    launch_inv {} [] {} [] [] 0, rfl⟩
  have hmem : ∀ addr : Word, addr.toNat < 0xBF00 ∨ 0xC000 ≤ addr.toNat →
      Memory.lookup (Memory.ofCells mem0) addr.toNat = Memory.lookup mem0 addr.toNat := fun addr haddr =>
    (lookup_ofCells mem0 addr.toNat).trans (if_pos (haddr.imp_right fun h => ⟨h, addr.isLt⟩))
  exact ⟨rfl, rfl, reg_zero, rfl, rfl, rfl, rfl, rfl, rfl, rfl, setWidth_toNat_of_coordinate _,
    setWidth_toNat_of_coordinate _, rfl, rfl, hmem, rfl, rfl, rfl, rfl,
    launch_inv config mem0 inputs schedule routine launchId⟩

/-- The framebuffer's 128 rows of 128 bytes fit below 65,536, so a pixel's address does not wrap (R117). -/
theorem pixelAddr_toNat (x y : BitVec 7) : (pixelAddr x y).toNat = 0xC000 + y.toNat * 128 + x.toNat := by
  have hx := x.isLt
  have hy := y.isLt
  rw [pixelAddr, BitVec.toNat_ofNat]
  omega

/-- Settles O56: column and row are the remainder and the quotient by 128 of the offset from 0xC000. -/
theorem pixelsFillTheFramebuffer : Obligations.PixelsFillTheFramebuffer := by
  refine ⟨pixelAddr_toNat, fun x y s h6 h7 => ?pair, fun x y x' y' h => ?injective, fun addr haddr => ?onto⟩
  case pair =>
    apply BitVec.eq_of_toNat_eq
    rw [addrPair_toNat, pixelAddr_toNat, h6, h7]
    omega
  case injective =>
    have hnat := congrArg BitVec.toNat h
    rw [pixelAddr_toNat, pixelAddr_toNat] at hnat
    have hx := x.isLt
    have hx' := x'.isLt
    exact ⟨BitVec.eq_of_toNat_eq (by omega), BitVec.eq_of_toNat_eq (by omega)⟩
  case onto =>
    refine ⟨BitVec.ofNat 7 (addr.toNat % 128), BitVec.ofNat 7 ((addr.toNat - 0xC000) / 128), ?_⟩
    have hlt := addr.isLt
    apply BitVec.eq_of_toNat_eq
    rw [pixelAddr_toNat, BitVec.toNat_ofNat, BitVec.toNat_ofNat]
    omega

end Sys2Proof.Machine
end

section
/-! SUPPORT. The turns to come (spec/60_exceptions.md R118): which turn is the `n`-th, and that a step takes the first. -/

namespace Sys2Proof.Machine

theorem turnNumber_eq (s : State) (n : Nat) : s.turnNumber n =
    (s.schedule[n]?).getD ((s.routine[(n - s.schedule.length) % s.routine.length]?).getD .cpu) := by
  rw [State.turnNumber]
  cases s.schedule[n]? <;> rfl

/-- The next turn is the first that is due, or the CPU's. -/
theorem turnNumber_zero (s : State) : s.turnNumber 0 = s.dueTurns.head?.getD .cpu := by
  rw [turnNumber_eq, State.dueTurns]
  cases s.schedule with
  | nil => cases s.routine <;> simp
  | cons => rfl

theorem dueTurns_of_turnNumber_host {s : State} {m : HostMove} (h : s.turnNumber 0 = .host m) :
    s.dueTurns = .host m :: s.dueTurns.tail := by
  rw [turnNumber_zero] at h
  cases hdue : s.dueTurns with
  | nil => cases hdue ▸ h
  | cons turn rest =>
    cases hdue ▸ h
    rfl

theorem cpuTurn_of_turnNumber_cpu {s : State} (h : s.turnNumber 0 = .cpu) : ∃ s', CpuTurn s s' := by
  rcases host_or_cpuTurn s with ⟨m, rest, hdue⟩ | hcpu
  · rw [turnNumber_zero, hdue] at h
    cases h
  · exact hcpu

/-- A step takes the first of the turns that are due, and leaves the routine (R22). -/
theorem schedule_of_step {s t : State} (h : step s = .next t) :
    t.schedule = s.dueTurns.tail ∧ t.routine = s.routine := by
  rcases step_next_cases h with ⟨m, rest, hdue, rfl⟩ | ⟨i, u, -, hexec, rfl⟩
  · exact ⟨(congrArg List.tail hdue).symm, rfl⟩
  · have hfixed := (completes_of_exec hexec).sameFixed
    exact ⟨hfixed.schedule, hfixed.routine⟩

/-- The routine without its first turn, and then the routine over and over, is the routine over and over from its second
turn on. -/
theorem getD_routine_tail (routine : List Turn) (n : Nat) :
    (routine.tail[n]?).getD ((routine[(n - routine.tail.length) % routine.length]?).getD .cpu) =
      (routine[(n + 1) % routine.length]?).getD .cpu := by
  rw [List.getElem?_tail, List.length_tail]
  by_cases hlt : n + 1 < routine.length
  · rw [Nat.mod_eq_of_lt hlt, List.getElem?_eq_getElem hlt]
    rfl
  · rw [List.getElem?_eq_none (by omega)]
    cases routine with
    | nil => rfl
    | cons turn rest =>
      have hmod : (n + 1) % (turn :: rest).length = (n + 1 - (turn :: rest).length) % (turn :: rest).length :=
        Nat.mod_eq_sub_mod (by omega)
      rw [hmod, List.length_cons, Nat.add_sub_cancel, Nat.add_sub_add_right, Option.getD_none]

/-- After a step the turns to come are those after the first. -/
theorem turnNumber_of_step {s t : State} (h : step s = .next t) (n : Nat) : t.turnNumber n = s.turnNumber (n + 1) := by
  obtain ⟨hschedule, hroutine⟩ := schedule_of_step h
  rw [turnNumber_eq, turnNumber_eq, hschedule, hroutine, State.dueTurns]
  cases s.schedule with
  | nil => exact getD_routine_tail s.routine n
  | cons turn rest => rw [List.tail_cons, List.getElem?_cons_succ, List.length_cons, Nat.add_sub_add_right]

/-- A turn of the routine comes again after any number of turns. -/
theorem exists_turnNumber_eq {s : State} {turn : Turn} (h : turn ∈ s.routine) (n : Nat) :
    ∃ m, n ≤ m ∧ s.turnNumber m = turn := by
  obtain ⟨j, hj, rfl⟩ := List.mem_iff_getElem.1 h
  have hpos : n ≤ s.routine.length * n := Nat.le_mul_of_pos_left n (by omega)
  refine ⟨s.schedule.length + (s.routine.length * n + j), by omega, ?_⟩
  rw [turnNumber_eq, List.getElem?_eq_none (by omega)]
  simp [Nat.mod_eq_of_lt hj, List.getElem?_eq_getElem hj]

/-! ### A pending swap (R114) -/

/-- While a swap is pending, only the host's processing of it takes VSYNC from 1 (R114). -/
theorem vsync_of_step {s t : State} (hvsync : s.devices.vsync = 1) (hturn : s.turnNumber 0 ≠ .host .processSwap)
    (h : step s = .next t) : t.devices.vsync = 1 := by
  rcases step_next_cases h with ⟨m, rest, hdue, rfl⟩ | ⟨i, u, -, hexec, rfl⟩
  · cases m with
    | processSwap =>
      rw [turnNumber_zero, hdue] at hturn
      exact absurd rfl hturn
    | keyChange | mouseChange | frameTick => exact hvsync
  · rcases (completes_of_exec hexec).devices_cases with hd | ⟨-, -, hd⟩ | ⟨-, -, hd⟩
    · exact (congrArg Devices.vsync hd).trans hvsync
    · exact (congrArg Devices.vsync hd).trans hvsync
    · exact congrArg Devices.vsync hd

/-- A run has ended the wait on a pending swap: VSYNC is 0, or the CPU has stopped. -/
def SwapWaitOver (r : Result) : Prop :=
  (∃ t, r = .next t ∧ t.devices.vsync = 0) ∨ (∃ f, r = .fault f) ∨ r = .refused .halted

/-- The host's processing of a pending swap sets VSYNC to 0 (R118). -/
theorem step_processSwap {s : State} (hvsync : s.devices.vsync = 1) (hturn : s.turnNumber 0 = .host .processSwap) :
    ∃ t, step s = .next t ∧ t.devices.vsync = 0 := by
  refine ⟨_, step_of_host (dueTurns_of_turnNumber_host hturn), ?_⟩
  rw [afterHostMove_devices, setSchedule_devices]
  exact congrArg Devices.vsync (if_pos hvsync)

/-- One turn of a pending swap: the wait is over, or it goes on with the turn taken and the swap pending. -/
theorem step_of_pending {s : State} (hvsync : s.devices.vsync = 1) :
    (∃ t, step s = .next t ∧ t.devices.vsync = 0) ∨ (∃ f, step s = .fault f) ∨ step s = .refused .halted ∨
      ∃ t, step s = .next t ∧ t.devices.vsync = 1 := by
  by_cases hturn : s.turnNumber 0 = .host .processSwap
  · exact .inl (step_processSwap hvsync hturn)
  · cases hstep : step s with
    | next t => exact .inr (.inr (.inr ⟨t, rfl, vsync_of_step hvsync hturn hstep⟩))
    | fault f => exact .inr (.inl ⟨f, rfl⟩)
    | refused r => exact .inr (.inr (.inl (congrArg Host.Outcome.refused (step_refused hstep))))

end Sys2Proof.Machine
end

section
/-! The host for ever (spec/60_exceptions.md R114, R118, spec/00_scope.md R6 HOST, HOST_PROCESSES_SWAP). -/

namespace Sys2Proof.Machine

/-- Settles O58: each clause is one of the facts about the turns to come. -/
theorem turnsFollowScheduleThenRoutine : Obligations.TurnsFollowScheduleThenRoutine :=
  fun _ => ⟨fun _ h => turnNumber_of_step h, fun _ h => step_of_host (dueTurns_of_turnNumber_host h),
    cpuTurn_of_turnNumber_cpu, fun _ h => exists_turnNumber_eq h⟩

/-- Settles O59: by induction over the turns, none of which is the one that takes VSYNC from 1. -/
theorem pendingSwapWaitsForTheHost : Obligations.PendingSwapWaitsForTheHost := by
  intro host k n
  induction n generalizing k with
  | zero =>
    intro s t hvsync _ h
    cases h
    exact hvsync
  | succ n ih =>
    intro s t hvsync hhost h
    obtain ⟨u, hstep, hrest⟩ := (runUnder_succ_next_iff host k n s t).1 h
    have hu : u.devices.vsync = 1 :=
      vsync_of_step (s := s.setSchedule [host k]) hvsync (hhost k (Nat.le_refl k) (by omega)) hstep
    exact ih (k + 1) u t hu (fun m hlow hhigh => hhost m (by omega) (by omega)) hrest

section CoreRun

variable {M : Host.Core} {s u : M.State} {f : M.Fault} {r : M.Refusal}

theorem run_succ_of_next (h : M.step s = .next u) (n : Nat) : M.run (n + 1) s = M.run n u := by
  simp only [Host.Core.run, h]

theorem run_succ_of_fault (h : M.step s = .fault f) (n : Nat) : M.run (n + 1) s = .fault f := by
  simp only [Host.Core.run, h]

theorem run_succ_of_refused (h : M.step s = .refused r) (n : Nat) : M.run (n + 1) s = .refused r := by
  simp only [Host.Core.run, h]

end CoreRun

section OneTurnMore

variable {s u : State} {f : Fault} {r : Refusal}

theorem runs_succ_of_next (h : step s = .next u) (n : Nat) : runs (n + 1) s = runs n u :=
  run_succ_of_next (M := Sys2Proof.core) h n

theorem runs_succ_of_fault (h : step s = .fault f) (n : Nat) : runs (n + 1) s = .fault f :=
  run_succ_of_fault (M := Sys2Proof.core) h n

theorem runs_succ_of_refused (h : step s = .refused r) (n : Nat) : runs (n + 1) s = .refused r :=
  run_succ_of_refused (M := Sys2Proof.core) h n

variable {host : HostOracle} {k : Nat}

theorem runUnder_succ_of_next (h : step (s.setSchedule [host k]) = .next u) (n : Nat) :
    runUnder host k (n + 1) s = runUnder host (k + 1) n u := by
  simp only [runUnder, h]

theorem runUnder_succ_of_fault (h : step (s.setSchedule [host k]) = .fault f) (n : Nat) :
    runUnder host k (n + 1) s = .fault f := by
  simp only [runUnder, h]

theorem runUnder_succ_of_refused (h : step (s.setSchedule [host k]) = .refused r) (n : Nat) :
    runUnder host k (n + 1) s = .refused r := by
  simp only [runUnder, h]

end OneTurnMore

/-- Under a host whose turn number `k + d` is the processing of the swap, the wait ends (R114). -/
theorem runUnder_swapWaitOver {host : HostOracle} {k d : Nat} {s : State} (hvsync : s.devices.vsync = 1)
    (hhost : host (k + d) = .host .processSwap) : ∃ n, SwapWaitOver (runUnder host k n s) := by
  induction d generalizing k s with
  | zero =>
    obtain ⟨t, hstep, ht⟩ := step_processSwap (s := s.setSchedule [host k]) hvsync hhost
    exact ⟨1, .inl ⟨t, runUnder_succ_of_next hstep 0, ht⟩⟩
  | succ d ih =>
    rcases step_of_pending (s := s.setSchedule [host k]) hvsync with
      ⟨t, hstep, ht⟩ | ⟨f, hstep⟩ | hstep | ⟨t, hstep, ht⟩
    · exact ⟨1, .inl ⟨t, runUnder_succ_of_next hstep 0, ht⟩⟩
    · exact ⟨1, .inr (.inl ⟨f, runUnder_succ_of_fault hstep 0⟩)⟩
    · exact ⟨1, .inr (.inr (runUnder_succ_of_refused hstep 0))⟩
    · obtain ⟨n, hn⟩ := ih (k := k + 1) ht (by rwa [Nat.add_right_comm, Nat.add_assoc])
      exact ⟨n + 1, runUnder_succ_of_next hstep n ▸ hn⟩

/-- In the run of a state whose turn number `d` is the processing of the swap, the wait ends (R114). -/
theorem runs_swapWaitOver {d : Nat} {s : State} (hvsync : s.devices.vsync = 1)
    (hturn : s.turnNumber d = .host .processSwap) : ∃ n, SwapWaitOver (runs n s) := by
  induction d generalizing s with
  | zero =>
    obtain ⟨t, hstep, ht⟩ := step_processSwap hvsync hturn
    exact ⟨1, .inl ⟨t, runs_succ_of_next hstep 0, ht⟩⟩
  | succ d ih =>
    rcases step_of_pending hvsync with ⟨t, hstep, ht⟩ | ⟨f, hstep⟩ | hstep | ⟨t, hstep, ht⟩
    · exact ⟨1, .inl ⟨t, runs_succ_of_next hstep 0, ht⟩⟩
    · exact ⟨1, .inr (.inl ⟨f, runs_succ_of_fault hstep 0⟩)⟩
    · exact ⟨1, .inr (.inr (runs_succ_of_refused hstep 0))⟩
    · obtain ⟨n, hn⟩ := ih ht ((turnNumber_of_step hstep d).trans hturn)
      exact ⟨n + 1, runs_succ_of_next hstep n ▸ hn⟩

/-- Settles O60: the assumption, asked of the start of the run, names a turn that processes the swap; for a state it is a
turn of the routine. -/
theorem fairHostProcessesThePendingSwap : Obligations.FairHostProcessesThePendingSwap := by
  refine ⟨fun host s hvsync hfair => ?_, fun s hvsync hmem => ?_⟩
  · obtain ⟨m, -, hm⟩ := hfair 0 s rfl hvsync
    exact runUnder_swapWaitOver hvsync ((congrArg host (Nat.zero_add m)).trans hm)
  · obtain ⟨d, -, hd⟩ := exists_turnNumber_eq hmem 0
    exact runs_swapWaitOver hvsync hd

end Sys2Proof.Machine
end
